-- ==== Sys2Proof/Word.lean ====
section
/-!
DEFINITION. The word types of the DL-Bus decoder block, each of the width the spec gives it. A width that is a parameter
of the model (`Widths` of Config.lean) is a bound on a number, not a type.
-/

namespace Sys2Proof

/-- One byte of the frame space (20_memory.md R60). -/
abbrev Byte := BitVec 8

/-- A timestamp in microseconds, a number below `2^W`, where the width W is a parameter (00_scope.md R6; assumption
log 6). -/
abbrev Time := Nat

/-- One slot of the pulse space: a PulseCode, class in bits 3:1 and level in bit 0 (30_encoding.md R90). -/
abbrev PulseCode := BitVec 4

/-- One event as the model writes it down: the 3-bit event code of 30_encoding.md R97 in bits 2:0, the operands
above it, the last of them as wide as its parameter says (DESIGN CHOICE: the spec gives the code's bits and no operand
positions; assumption log 3). -/
abbrev EventWord := Nat

end Sys2Proof
end

