-- ==== Sys2Proof/Config.lean ====
section
/-!
DEFINITION. What a realisation fixes and the spec leaves open: the global constants, the shape of the parameters
(00_scope.md R6, R7) and the free values (93_implementation_defined.md U2).
-/

namespace Sys2Proof

/-- Consecutive 1-bits that make the SYNC preamble (00_scope.md R6). -/
def Config.syncLen : Nat := 16

/-- Line bits per data byte: 1 start, 8 data, 1 stop (00_scope.md R6). -/
def Config.byteBits : Nat := 10

/-- The anomaly count at which ASSEMBLE aborts (00_scope.md R6; 90_conflicts.md C1: the 5th, not the 6th). -/
def Config.anomLimit : Nat := 5

/-- The operand widths that are parameters (92_eei_decisions.md "Named parameters", 30_encoding.md R97). -/
structure Widths where
  /-- W, the width in bits of a timestamp (00_scope.md R6; assumption log 6) -/
  time  : Nat
  /-- the width of `pin` (assumption log 4) -/
  pin   : Nat
  /-- the width of `index` (assumption log 4) -/
  index : Nat
  deriving DecidableEq, Repr

/-- W = 32 is the spec's default (00_scope.md R6). The spec gives `pin` and `index` no default; 32 is the model's
(DESIGN CHOICE, assumption log 4). -/
def Widths.default : Widths := { time := 32, pin := 32, index := 32 }

/-- The five kinds of a sensor field (30_encoding.md R104). -/
inductive SensorKind where
  | digital | temperature | volumeFlow | rays | room
  deriving DecidableEq, Repr

/-- TAGMAP: the kind of each of the eight tag values, or none (30_encoding.md R104; OPEN). -/
structure TagMap where
  t0 : Option SensorKind
  t1 : Option SensorKind
  t2 : Option SensorKind
  t3 : Option SensorKind
  t4 : Option SensorKind
  t5 : Option SensorKind
  t6 : Option SensorKind
  t7 : Option SensorKind
  deriving DecidableEq, Repr

/-- `P.fields`, the field-group offset table (45_field_decoder.md R196; OPEN). -/
structure FieldTable where
  sensorBase  : Nat
  sensorCount : Nat
  outBase     : Nat
  /-- 0, 1 or 2 bytes. -/
  outBytes    : Fin 3
  speedBase   : Nat
  speedCount  : Nat
  analogBase  : Nat
  analogCount : Nat
  tagMap      : TagMap
  deriving DecidableEq, Repr

/-- A DeviceProfile, one of the four immutable presets (00_scope.md R7). -/
structure DeviceProfile where
  minSingle : Nat
  maxSingle : Nat
  minDouble : Nat
  maxDouble : Nat
  /-- expected byte 0 -/
  id0       : Byte
  /-- expected byte 1; `none` is WILDCARD -/
  id1       : Option Byte
  /-- N, the frame byte length -/
  len       : Nat
  /-- checksum byte index, 0 = no checksum -/
  crcIdx    : Nat
  /-- CAP, the PulseBuffer capacity -/
  cap       : Nat
  /-- MINBITS -/
  minBits   : Nat
  fields    : FieldTable
  deriving DecidableEq, Repr

/-- PROFILE: the table of the four DeviceProfiles (10_state.md R29). -/
structure ProfileTable where
  p0 : DeviceProfile
  p1 : DeviceProfile
  p2 : DeviceProfile
  p3 : DeviceProfile
  deriving DecidableEq, Repr

/-- Everything OPEN that the model takes as an argument (00_scope.md R6, R7, 92_eei_decisions.md "Named parameters").
It is carried in State in a field that no operation writes (assumption log 7). -/
structure Params where
  /-- W and the widths of `pin` and `index` -/
  widths   : Widths
  /-- T_NODATA, the no-data guard in microseconds -/
  tNodata  : Nat
  /-- SEED_EMIT -/
  seedEmit : Bool
  profiles : ProfileTable
  deriving DecidableEq, Repr

/-- What slot `i` of the pulse space reads as before anything was stored there (10_state.md R24, R41: unspecified).
A FREE VALUE (assumption log 9). -/
opaque Config.unwrittenCode : Nat → PulseCode

/-- What element `i` of the bit space reads as before anything was stored there (10_state.md R31, R41).
A FREE VALUE (assumption log 9). -/
opaque Config.unwrittenBit : Nat → Bool

/-- What byte `i` of the frame space reads as before anything was stored there (10_state.md R33, R41).
A FREE VALUE (assumption log 9). -/
opaque Config.unwrittenByte : Nat → Byte

/-- The `n`-th free bit (93_implementation_defined.md U2). A FREE VALUE (assumption log 10, 11). -/
opaque Config.freeBit : Nat → Bool

/-- The `n`-th free number (93_implementation_defined.md U2). A FREE VALUE (assumption log 10, 11). -/
opaque Config.freeNat : Nat → Nat

end Sys2Proof
end

