-- ==== Sys2Proof/Syntax.lean ====
section
/-!
DEFINITION. The operations of spec/opcode_table.json: six events, six stages, six PulseCodes.
-/

namespace Sys2Proof

/-- The six width classes (30_encoding.md R91). -/
inductive PulseClass where
  /-- SingleWidth -/
  | sw
  /-- DoubleWidth -/
  | dw
  /-- ShorterThanSingle -/
  | sh
  /-- BetweenSingleDouble -/
  | bt
  /-- LongerThanDouble -/
  | ld
  /-- LongerThanTwiceDouble -/
  | lt
  deriving DecidableEq, Repr

/-- One constructor per row of spec/opcode_table.json. -/
inductive Instr where
  /-- EDGE (40_edge_sampler.md R120) -/
  | edge (level : Bool) (now : Time)
  /-- CONFIG (46_sequencer.md R220); the width of `pin` is a parameter, so it is a natural number -/
  | config (model : BitVec 2) (pin : Nat) (pinmode : BitVec 2)
  /-- START (46_sequencer.md R221) -/
  | start (now : Time)
  /-- READ_REQ (46_sequencer.md R222) -/
  | readReq (now : Time)
  /-- POLL (46_sequencer.md R223) -/
  | poll (now : Time)
  /-- GET_FIELD (45_field_decoder.md R195); `index` is a natural number -/
  | getField (group : BitVec 3) (index : Nat)
  /-- ASSEMBLE (41_frame_assembler.md R140) -/
  | assemble
  /-- SYNC (42_frame_synchronizer.md R160) -/
  | sync
  /-- TRIM (43_frame_trimmer.md R175) -/
  | trim
  /-- CHKDEV (44_device_validator.md R185) -/
  | chkdev
  /-- CHKCRC (44_device_validator.md R186) -/
  | chkcrc
  /-- COMMIT (46_sequencer.md R227) -/
  | commit
  /-- SW (41_frame_assembler.md R141) -/
  | sw (level : Bool)
  /-- DW (41_frame_assembler.md R142) -/
  | dw (level : Bool)
  /-- SH (41_frame_assembler.md R143) -/
  | sh (level : Bool)
  /-- BT (41_frame_assembler.md R144) -/
  | bt (level : Bool)
  /-- LD (41_frame_assembler.md R145) -/
  | ld (level : Bool)
  /-- LT (41_frame_assembler.md R146) -/
  | lt (level : Bool)
  deriving DecidableEq, Repr

/-- The three formats of 30_encoding.md: EVT (R97), STG (R99), PC (R90). Their codes overlap, so a code means an
operation only together with its format. -/
inductive Format where
  | evt | stg | pc
  deriving DecidableEq, Repr

/-- The format of an operation's row. -/
def Instr.format : Instr → Format
  | .edge _ _ | .config _ _ _ | .start _ | .readReq _ | .poll _ | .getField _ _ => .evt
  | .assemble | .sync | .trim | .chkdev | .chkcrc | .commit => .stg
  | .sw _ | .dw _ | .sh _ | .bt _ | .ld _ | .lt _ => .pc

/-- An encoded operation: the word of its format. -/
inductive OpWord where
  | evt (w : EventWord)
  | stg (w : BitVec 3)
  | pc (w : PulseCode)
  deriving DecidableEq, Repr

/-- The format of a word. -/
def OpWord.format : OpWord → Format
  | .evt _ => .evt
  | .stg _ => .stg
  | .pc _ => .pc

end Sys2Proof
end

