-- ==== Sys2Proof/WellFormed.lean ====
section
/-!
DEFINITION. Which operations can be written in the format. Every operand but `now`, `pin` and `index`, whose widths are
parameters, has a type of exactly its width; "an event with an operand outside its declared range cannot be written in
the format" (46_sequencer.md R230).
-/

namespace Sys2Proof

/-- `now`, `pin` and `index` fit their widths (30_encoding.md R97). -/
def Instr.wellFormed (W : Widths) : Instr → Bool
  | .edge _ now | .start now | .readReq now | .poll now => decide (now < 2 ^ W.time)
  | .config _ pin _ => decide (pin < 2 ^ W.pin)
  | .getField _ index => decide (index < 2 ^ W.index)
  | .assemble | .sync | .trim | .chkdev | .chkcrc | .commit => true
  | .sw _ | .dw _ | .sh _ | .bt _ | .ld _ | .lt _ => true

end Sys2Proof
end

