-- ==== Sys2Proof/Decode.lean ====
section
/-!
DEFINITION. Decoding of the three formats, total on any word and rejecting by name, and the encoder.

The event word (DESIGN CHOICE above the code; assumption log 3). The operand from bit 8 up is as wide as its parameter
says, and a larger number there is refused:

| event | 2:0 | 7:3 | from 8 up |
|---|---|---|---|
| EDGE | 1 | level in 3, rest 0 | now |
| CONFIG | 2 | model in 4:3, pinmode in 6:5, rest 0 | pin |
| START, READ_REQ, POLL | 3, 4, 5 | 0 | now |
| GET_FIELD | 6 | group in 5:3, rest 0 | index |
-/

namespace Sys2Proof

/-- Why a word is no operation. -/
inductive DecodeError where
  /-- Event codes 0 and 7 (46_sequencer.md R230). -/
  | reservedEvent (code : Nat)
  /-- A bit of the event word that holds no operand is 1 (the model's own layout; assumption log 3). -/
  | strayOperandBits
  /-- `now`, `pin` or `index` is wider than its parameter says (46_sequencer.md R230). -/
  | operandOutOfRange
  /-- Stage codes 6 and 7 (30_encoding.md R99). -/
  | reservedStage (code : Nat)
  /-- PulseCode classes 6 and 7 (30_encoding.md R92). -/
  | reservedClass (code : Nat)
  deriving DecidableEq, Repr

/-! ### PulseCode fields (30_encoding.md R90, R91) -/

/-- The width class code of a class, in the order of 30_encoding.md R91. -/
def PulseClass.code : PulseClass → BitVec 3
  | .sw => 0#3
  | .dw => 1#3
  | .sh => 2#3
  | .bt => 3#3
  | .ld => 4#3
  | .lt => 5#3

/-- `c[3:1]` (30_encoding.md R90). -/
def codeClass (c : PulseCode) : BitVec 3 := c.extractLsb' 1 3

/-- `c[0]` (30_encoding.md R90). -/
def codeLevel (c : PulseCode) : Bool := c.getLsbD 0

/-- The class of a class code; 6 and 7 are reserved (30_encoding.md R91, R92). -/
def decodeClass (cls : BitVec 3) : Option PulseClass :=
  match cls.toNat with
  | 0 => some .sw
  | 1 => some .dw
  | 2 => some .sh
  | 3 => some .bt
  | 4 => some .ld
  | 5 => some .lt
  | _ => none

/-- `(cls << 1) | level` (40_edge_sampler.md R125). -/
def composeCode (cls : PulseClass) (level : Bool) : PulseCode :=
  cls.code ++ BitVec.ofBool level

/-- The PulseCode operation of a class and a level. -/
def pulseInstr (cls : PulseClass) (level : Bool) : Instr :=
  match cls with
  | .sw => .sw level
  | .dw => .dw level
  | .sh => .sh level
  | .bt => .bt level
  | .ld => .ld level
  | .lt => .lt level

/-! ### Decoding -/

/-- Format PC. -/
def decodePc (c : PulseCode) : Except DecodeError Instr :=
  match decodeClass (codeClass c) with
  | some cls => .ok (pulseInstr cls (codeLevel c))
  | none => .error (.reservedClass (codeClass c).toNat)

/-- Format STG (30_encoding.md R99). -/
def decodeStg (w : BitVec 3) : Except DecodeError Instr :=
  match w.toNat with
  | 0 => .ok .assemble
  | 1 => .ok .sync
  | 2 => .ok .trim
  | 3 => .ok .chkdev
  | 4 => .ok .chkcrc
  | 5 => .ok .commit
  | k => .error (.reservedStage k)

/-- Bits 2:0 of an event word: the event code (30_encoding.md R97). -/
def EventWord.code (w : EventWord) : Nat := w % 8

/-- Bits 7:3 of an event word: its one- to four-bit operands. -/
def EventWord.low (w : EventWord) : Nat := w / 8 % 32

/-- The bits of an event word from bit 8 up: its wide operand. -/
def EventWord.wide (w : EventWord) : Nat := w / 256

/-- The event word of a code, the bits 7:3 and the wide operand. -/
def EventWord.make (code low wide : Nat) : EventWord := code + 8 * low + 256 * wide

/-- `i` when bits 7:3 of `w` hold nothing but its operands, which fill the numbers below `size`, and its wide operand
fits `i`'s width (46_sequencer.md R230). -/
def whenFits (W : Widths) (w : EventWord) (size : Nat) (i : Instr) : Except DecodeError Instr :=
  if EventWord.low w < size then
    if i.wellFormed W then .ok i else .error .operandOutOfRange
  else .error .strayOperandBits

/-- Format EVT (30_encoding.md R97). -/
def decodeEvt (W : Widths) (w : EventWord) : Except DecodeError Instr :=
  let low := EventWord.low w
  let wide := EventWord.wide w
  match EventWord.code w with
  | 1 => whenFits W w 2 (.edge (low == 1) wide)
  | 2 => whenFits W w 16 (.config (BitVec.ofNat 2 low) wide (BitVec.ofNat 2 (low / 4)))
  | 3 => whenFits W w 1 (.start wide)
  | 4 => whenFits W w 1 (.readReq wide)
  | 5 => whenFits W w 1 (.poll wide)
  | 6 => whenFits W w 8 (.getField (BitVec.ofNat 3 low) wide)
  | k => .error (.reservedEvent k)

/-- The decoder: the operation of a word of any of the three formats, or the reason there is none. -/
def decode (W : Widths) : OpWord → Except DecodeError Instr
  | .evt w => decodeEvt W w
  | .stg w => decodeStg w
  | .pc w => decodePc w

/-! ### Encoding -/

/-- The word of an operation, from the tables of 30_encoding.md R91, R97, R99. -/
def encode : Instr → OpWord
  | .edge level now => .evt (EventWord.make 1 level.toNat now)
  | .config model pin pinmode => .evt (EventWord.make 2 (model.toNat + 4 * pinmode.toNat) pin)
  | .start now => .evt (EventWord.make 3 0 now)
  | .readReq now => .evt (EventWord.make 4 0 now)
  | .poll now => .evt (EventWord.make 5 0 now)
  | .getField group index => .evt (EventWord.make 6 group.toNat index)
  | .assemble => .stg 0#3
  | .sync => .stg 1#3
  | .trim => .stg 2#3
  | .chkdev => .stg 3#3
  | .chkcrc => .stg 4#3
  | .commit => .stg 5#3
  | .sw level => .pc (composeCode .sw level)
  | .dw level => .pc (composeCode .dw level)
  | .sh level => .pc (composeCode .sh level)
  | .bt level => .pc (composeCode .bt level)
  | .ld level => .pc (composeCode .ld level)
  | .lt level => .pc (composeCode .lt level)

/-! ### The table's numbering -/

/-- The event word whose low `nbits` bits are `w`, every bit above them 0. -/
def eventWordOf (nbits w : Nat) : EventWord := w % 2 ^ nbits

/-- The operation the block's port reads from a word numbered as spec/opcode_table.json numbers it. The formats EVT,
STG and PC share numbers, and the block's interface is the event set (20_memory.md R61), so the word is read as an
event (assumption log 5), at the widths of the reset state. -/
def decodeTableWord (nbits w : Nat) : Option Instr :=
  (decode Widths.default (.evt (eventWordOf nbits w))).toOption

/-! ### The textual notation (30_encoding.md R107) -/

/-- The class mnemonic (30_encoding.md R91). -/
def PulseClass.text : PulseClass → String
  | .sw => "SW"
  | .dw => "DW"
  | .sh => "SH"
  | .bt => "BT"
  | .ld => "LD"
  | .lt => "LT"

/-- A bit as a digit. -/
def bitText (b : Bool) : String := if b then "1" else "0"

/-- One line of an event script, one PulseCode of a pulse stream, or a stage's mnemonic (30_encoding.md R107). -/
def Instr.text : Instr → String
  | .edge level now => "EDGE " ++ bitText level ++ " " ++ toString now
  | .config model pin pinmode =>
    "CONFIG " ++ toString model.toNat ++ " " ++ toString pin ++ " " ++ toString pinmode.toNat
  | .start now => "START " ++ toString now
  | .readReq now => "READ_REQ " ++ toString now
  | .poll now => "POLL " ++ toString now
  | .getField group index => "GET_FIELD " ++ toString group.toNat ++ " " ++ toString index
  | .assemble => "ASSEMBLE"
  | .sync => "SYNC"
  | .trim => "TRIM"
  | .chkdev => "CHKDEV"
  | .chkcrc => "CHKCRC"
  | .commit => "COMMIT"
  | .sw level => PulseClass.sw.text ++ bitText level
  | .dw level => PulseClass.dw.text ++ bitText level
  | .sh level => PulseClass.sh.text ++ bitText level
  | .bt level => PulseClass.bt.text ++ bitText level
  | .ld level => PulseClass.ld.text ++ bitText level
  | .lt level => PulseClass.lt.text ++ bitText level

end Sys2Proof
end

