-- ==== Sys2Proof/Machine/Profile.lean ====
section
/-!
DEFINITION. Reading the parameters: the profile table, the tag map, the well-formedness of a profile
(00_scope.md R8), the checks' use of a profile, and the parameter values of the reset state (assumption log 7).
-/

namespace Sys2Proof

/-- `PROFILE[model]` (10_state.md R29). -/
def ProfileTable.get (t : ProfileTable) (model : BitVec 2) : DeviceProfile :=
  match model.toNat with
  | 0 => t.p0
  | 1 => t.p1
  | 2 => t.p2
  | _ => t.p3

/-- `TAGMAP(tag)` (30_encoding.md R104). -/
def TagMap.get (m : TagMap) (tag : BitVec 3) : Option SensorKind :=
  match tag.toNat with
  | 0 => m.t0
  | 1 => m.t1
  | 2 => m.t2
  | 3 => m.t3
  | 4 => m.t4
  | 5 => m.t5
  | 6 => m.t6
  | _ => m.t7

/-- The frame bytes CHKDEV reads exist (44_device_validator.md R185). -/
def DeviceProfile.idInside (p : DeviceProfile) : Bool := decide (1 ≤ p.len) && (p.id1.isNone || decide (2 ≤ p.len))

/-- Every field of the offset table lies inside the frame (45_field_decoder.md R196). -/
def DeviceProfile.fieldsInside (p : DeviceProfile) : Bool :=
  decide (p.fields.sensorBase + 2 * p.fields.sensorCount ≤ p.len) &&
  decide (p.fields.outBase + p.fields.outBytes.val ≤ p.len) &&
  decide (p.fields.speedBase + p.fields.speedCount ≤ p.len) &&
  decide (p.fields.analogBase + p.fields.analogCount ≤ p.len)

/-- A well-formed profile for timestamps of `W` bits (00_scope.md R8, with the field-table constraints of
45_field_decoder.md R196 since the FieldDecoder is modelled; assumption log 26). -/
def DeviceProfile.wellFormed (W : Nat) (p : DeviceProfile) : Bool :=
  decide (p.minSingle ≤ p.maxSingle) && decide (p.maxSingle < p.minDouble) &&
  decide (p.minDouble ≤ p.maxDouble) && decide (2 * p.minDouble < 2 ^ W) &&
  p.idInside && decide (p.crcIdx < p.len) &&
  decide (1 ≤ p.cap) && decide (Config.byteBits * p.len - 1 ≤ p.minBits) && p.fieldsInside

/-! ### The parameter values of the reset state (assumption log 7) -/

/-- The default TAGMAP (30_encoding.md R104): 1 Digital, 2 Temperature, 3 VolumeFlow, 6 Rays, 7 Room. -/
def TagMap.default : TagMap :=
  { t0 := none, t1 := some .digital, t2 := some .temperature, t3 := some .volumeFlow
    t4 := none, t5 := none, t6 := some .rays, t7 := some .room }

/-- An offset table with every count 0 and the default TAGMAP. -/
def FieldTable.empty : FieldTable :=
  { sensorBase := 0, sensorCount := 0, outBase := 0, outBytes := 0, speedBase := 0, speedCount := 0
    analogBase := 0, analogCount := 0, tagMap := TagMap.default }

/-- TP2 of 95_test_vectors.md. -/
def DeviceProfile.tp2 : DeviceProfile :=
  { minSingle := 800, maxSingle := 1200, minDouble := 1600, maxDouble := 2400, id0 := 0x30#8, id1 := none
    len := 2, crcIdx := 1, cap := 72, minBits := 20, fields := FieldTable.empty }

/-- P7 of 95_test_vectors.md: the source's smallest profile (00_scope.md R9) with the defaults of decisions D8, D11
and D28. -/
def DeviceProfile.p7 : DeviceProfile :=
  { minSingle := 800, maxSingle := 1200, minDouble := 1600, maxDouble := 2400, id0 := 0x30#8, id1 := none
    len := 7, crcIdx := 0, cap := 172, minBits := 70
    fields := { FieldTable.empty with sensorBase := 1, sensorCount := 3 } }

/-- TP0 of 95_test_vectors.md. -/
def DeviceProfile.tp0 : DeviceProfile :=
  { minSingle := 800, maxSingle := 1200, minDouble := 1600, maxDouble := 2400, id0 := 0x30#8, id1 := none
    len := 1, crcIdx := 0, cap := 4, minBits := 10, fields := FieldTable.empty }

/-- The parameters the reset state carries: the spec's defaults (00_scope.md R6) and the profile table of the programs of
95_test_vectors.md; identifier 3, which they do not use, selects P7 again (DESIGN CHOICE, assumption log 7). -/
def Params.default : Params :=
  { widths := Widths.default, tNodata := 100000, seedEmit := true
    profiles := { p0 := DeviceProfile.tp2, p1 := DeviceProfile.p7, p2 := DeviceProfile.tp0, p3 := DeviceProfile.p7 } }

end Sys2Proof
end

