-- ==== Sys2Proof/Machine/State.lean ====
section
/-!
DEFINITION. The state of the DL-Bus decoder block (10_state.md R20), the outputs, the reasons a step can stop, and the
state after reset (10_state.md R41).
-/

namespace Sys2Proof.Machine

/-- A storage space: index and element pairs, indexes strictly rising. An index that is not listed has not been
written since reset (assumption log 9). The frame space's entries are `Host.Cell`. -/
abbrev Memory (α : Type) := List (Nat × α)

/-- Status and error codes (30_encoding.md R103). -/
inductive Status where
  | none | captureTimeout | anomalyOverrun | noFrame | frameTooShort | deviceMismatch | checksumMismatch
  | fieldOutOfRange | fieldNotPopulated
  deriving DecidableEq, Repr

/-- The cycle-level failures a stage can end in: codes 2 to 6, the operand of FAIL (60_exceptions.md R256). -/
inductive CycleFailure where
  | anomalyOverrun | noFrame | frameTooShort | deviceMismatch | checksumMismatch
  deriving DecidableEq, Repr

/-- `res`: the terminal state the last cycle reached (10_state.md R35). -/
inductive Res where
  | idle | decoded | aborted
  deriving DecidableEq, Repr

/-- The phases of the document's state machine (30_encoding.md R100). -/
inductive Phase where
  | idle | armed | capturing | captureComplete | assembling | synchronized | resyncInverted | noFrame
  | frameTooShort | trimmed | validated | deviceMismatch | checksumMismatch | decoded | aborted
  deriving DecidableEq, Repr

/-- The operating mode of a room field (30_encoding.md R104). -/
inductive RoomMode where
  | auto | normal | lower | standby
  deriving DecidableEq, Repr

/-- A sensor reading (45_field_decoder.md R201 to R205). -/
inductive SensorReading where
  /-- R201 -/
  | digital (value : Bool)
  /-- R202, in tenths of a degree -/
  | temperature (v : Int)
  /-- R203, unit not stated -/
  | rays (v : Int)
  /-- R204, `4 * v`, unit not stated -/
  | volumeFlow (value : Int)
  /-- R205, `t` in tenths of a degree -/
  | room (t : Nat) (mode : RoomMode)
  deriving DecidableEq, Repr

/-- The result of GET_FIELD (45_field_decoder.md R195). -/
inductive FieldResult where
  | sensorReading (r : SensorReading)
  | outputBit (b : Bool)
  | speedStep (n : Nat)
  /-- in tenths -/
  | analogValue (n : Nat)
  | decodeFailure (c : Status)
  deriving DecidableEq, Repr

/-- What the block puts out: a report (60_exceptions.md R264) or the answer of a query (45_field_decoder.md R195). -/
inductive Output where
  | report (c : Status)
  | field (r : FieldResult)
  deriving DecidableEq, Repr

/-- Accesses outside a storage space. "No access outside a space exists, so none needs a fault" (20_memory.md R68):
no run from reset raises one; only states that no run reaches do. All are SAFE (assumption log 17). -/
inductive Fault where
  /-- EDGE, armed with `wr >= P.CAP`. Safe. -/
  | pulseSlotOutOfRange
  /-- EMIT with `hc >= 2 * P.CAP`, SYNC with `blen > P.CAP`, TRIM with `start + 10*P.N - 2 >= blen`. Safe. -/
  | bitIndexOutOfRange
  /-- CHKDEV, CHKCRC, GET_FIELD reading byte `P.N` or above (a profile that is not well formed). Safe. -/
  | frameByteOutOfRange
  deriving DecidableEq, Repr

/-- The refusals of 00_scope.md R11: the block gives the event no meaning, the state is unchanged and the run is
marked. All are SAFE (assumption log 19). -/
inductive Refusal where
  /-- An operation that has no meaning yet; exec's own refusal, by mnemonic. No arm uses it. Safe. -/
  | notModelled (mnemonic : String)
  /-- step, on a word that is no event (46_sequencer.md R230). Safe. -/
  | undecodable (e : Sys2Proof.DecodeError)
  /-- START and READ_REQ with `configured = 0` (46_sequencer.md R221, R222), and an operation that reads `P` while
  `configured = 0`, where `P` is not defined (10_state.md R29; assumption log 18). Safe. -/
  | notConfigured
  /-- CONFIG with `armed = 1` (46_sequencer.md R220). Safe. -/
  | configWhileArmed
  /-- CONFIG with `pinmode = 3` (46_sequencer.md R220, 30_encoding.md R102). Safe. -/
  | reservedPinmode
  /-- CONFIG with a profile that is not well formed (46_sequencer.md R220, 00_scope.md R8). Safe. -/
  | malformedProfile
  /-- ASSEMBLE on a slot with class code 6 or 7 (41_frame_assembler.md R151). Safe. -/
  | reservedPulseCode
  /-- GET_FIELD of group 4 with `valid = 1` (45_field_decoder.md R209). Safe. -/
  | heatPowerLayout
  /-- GET_FIELD of group 5 with `valid = 1` (45_field_decoder.md R210). Safe. -/
  | heatEnergyLayout
  deriving DecidableEq, Repr

/-- The state of the block: 10_state.md R20's table, then the parameters, then the model's own fields. -/
structure State where
  /-- Timestamp of the most recent EDGE, armed or not: `par.widths.time` bits (R21). -/
  lastEdgeTime : Time
  /-- The flag that lets EDGE append (R22). -/
  armed : Bool
  /-- PulseCodes stored since the last START (R23). -/
  wr : Nat
  /-- The PulseBuffer (R24). -/
  buf : Memory PulseCode
  /-- A capture was started and not yet consumed or abandoned (R25). -/
  outstanding : Bool
  /-- `now` of the START that armed the capture: `par.widths.time` bits (R26). -/
  armTime : Time
  /-- A no-data timeout was reported; START has no effect (R27). -/
  suppress : Bool
  /-- A profile is selected (R28). -/
  configured : Bool
  /-- The selected profile (R28). -/
  model : BitVec 2
  /-- The GPIO pin identifier, read by no rule (R28). -/
  pin : Nat
  /-- The input mode, read by no rule (R28). -/
  pinmode : BitVec 2
  /-- Half-bits emitted in this ASSEMBLE (R30). -/
  hc : Nat
  /-- Anomalies counted in this ASSEMBLE (R30). -/
  ac : Nat
  /-- The BitStream (R31). -/
  bits : Memory Bool
  /-- The BitStream's length (R31). -/
  blen : Nat
  /-- 1 when SYNC matched on the complement (R32). -/
  inverted : Bool
  /-- Index of the run SYNC matched (R32). -/
  syncPos : Nat
  /-- The frame start index (R32). -/
  start : Nat
  /-- The DecodedFrame (R33). -/
  frame : Memory Byte
  /-- The DecodedFrame's validity flag (R33). -/
  valid : Bool
  /-- The failure that ended the most recent cycle (R34). -/
  status : Status
  /-- The terminal state the last cycle reached (R35). -/
  res : Res
  /-- The parameters: no operation writes them (R29, R36; assumption log 7). -/
  par : Params
  /-- ASSEMBLE's loop index (R39, 41_frame_assembler.md R140; assumption log 14). -/
  pos : Nat
  /-- The result of the last stage or PulseCode operation, `none` for ok or pass, which PROCESS reads
  (46_sequencer.md R225; assumption log 13). -/
  result : Option CycleFailure
  /-- How many free values have been drawn (assumption log 27). -/
  free : Nat
  /-- The events the environment has chosen and the block has not taken yet, oldest first (assumption log 1). -/
  inbox : List EventWord
  /-- The outputs so far, oldest first (60_exceptions.md R264; assumption log 15). -/
  outs : List Output
  deriving DecidableEq, Repr

/-- The state after reset (10_state.md R41). The registers the spec leaves unspecified are 0 and the spaces hold nothing
(DESIGN CHOICE, UNSAFE; assumption log 8, 9); `State.IsReset` of Safety.lean is the spec's own reset, any value in them. -/
def State.reset : State :=
  { lastEdgeTime := 0
    armed := false
    wr := 0
    buf := []
    outstanding := false
    armTime := 0
    suppress := false
    configured := false
    model := 0#2
    pin := 0
    pinmode := 0#2
    hc := 0
    ac := 0
    bits := []
    blen := 0
    inverted := false
    syncPos := 0
    start := 0
    frame := []
    valid := false
    status := .none
    res := .idle
    par := Params.default
    pos := 0
    result := none
    free := 0
    inbox := []
    outs := [] }

end Sys2Proof.Machine
end

