-- ==== Sys2Proof/Machine/Ops.lean ====
section
/-!
DEFINITION. The named operations over the storage spaces and the registers: reading and writing an element,
sequencing, the active profile, EMIT, ANOM, the outputs, the failure entry FAIL with TIMEOUT beside it, the return from
a failure (the effective START), and the free values.
-/

namespace Sys2Proof.Machine

/-! ### Storage spaces (20_memory.md R60) -/

/-- The element stored at index `i`, if one was. -/
def Memory.find {α : Type} : Memory α → Nat → Option α
  | [], _ => none
  | (k, v) :: m, i => if k = i then some v else Memory.find m i

/-- Store `v` at index `i`, keeping the indexes strictly rising. -/
def Memory.write {α : Type} : Memory α → Nat → α → Memory α
  | [], i, v => [(i, v)]
  | (k, x) :: m, i, v =>
    if i < k then (i, v) :: (k, x) :: m
    else if i = k then (i, v) :: m
    else (k, x) :: Memory.write m i v

/-- The canonical form: indexes strictly rising (assumption log 9). -/
def Memory.wf {α : Type} : Memory α → Bool
  | [] => true
  | [_] => true
  | (k, _) :: (k', x) :: m => decide (k < k') && Memory.wf ((k', x) :: m)

/-- `buf[i]`; a slot never written reads as a free value (10_state.md R24). -/
def State.readCode (s : State) (i : Nat) : PulseCode := (s.buf.find i).getD (Config.unwrittenCode i)

/-- `bits[k]`; an element never written reads as a free value (10_state.md R31). -/
def State.readBit (s : State) (k : Nat) : Bool := (s.bits.find k).getD (Config.unwrittenBit k)

/-- `frame[k]`; a byte never written reads as a free value (10_state.md R33). -/
def State.readFrame (s : State) (k : Nat) : Byte := (s.frame.find k).getD (Config.unwrittenByte k)

/-- Every space is in canonical form. -/
def State.spacesWf (s : State) : Bool := s.buf.wf && s.bits.wf && s.frame.wf

/-! ### Sequencing -/

/-- `f` on the next state; a fault or a refusal stays. -/
def andThen {σ τ : Type} (o : Host.Outcome σ Fault Refusal) (f : σ → Host.Outcome τ Fault Refusal) :
    Host.Outcome τ Fault Refusal :=
  match o with
  | .next s => f s
  | .fault r => .fault r
  | .refused r => .refused r

/-- The active profile `P = PROFILE[model]` (10_state.md R29). -/
def State.profile (s : State) : DeviceProfile := s.par.profiles.get s.model

/-- Go on with `P`, which is defined only while `configured = 1` (10_state.md R29; assumption log 18). -/
def withProfile {τ : Type} (s : State) (k : DeviceProfile → Host.Outcome τ Fault Refusal) :
    Host.Outcome τ Fault Refusal :=
  if s.configured then k s.profile else .refused .notConfigured

/-! ### Results and outputs -/

/-- The result of a stage or PulseCode operation: `none` is ok or pass (assumption log 13). -/
def State.withResult (s : State) (r : Option CycleFailure) : State := { s with result := r }

/-- `report(c)` (60_exceptions.md R264). -/
def State.report (s : State) (c : Status) : State := { s with outs := s.outs ++ [.report c] }

/-- Answer a query (45_field_decoder.md R195). -/
def State.answer (s : State) (r : FieldResult) : State := { s with outs := s.outs ++ [.field r] }

/-! ### Failure entry and return -/

/-- The status code of a cycle failure (30_encoding.md R103). -/
def CycleFailure.status : CycleFailure → Status
  | .anomalyOverrun => .anomalyOverrun
  | .noFrame => .noFrame
  | .frameTooShort => .frameTooShort
  | .deviceMismatch => .deviceMismatch
  | .checksumMismatch => .checksumMismatch

/-- FAIL(c) (60_exceptions.md R256): the whole entry of a cycle failure. -/
def State.fail (s : State) (c : CycleFailure) : State :=
  State.report { s with valid := false, status := c.status, res := .aborted } c.status

/-- TIMEOUT (46_sequencer.md R224): the entry of CaptureTimeout. -/
def State.timeout (s : State) : State :=
  State.report { s with armed := false, outstanding := false, suppress := true
                        valid := false, status := .captureTimeout, res := .aborted } .captureTimeout

/-- The effective part of START (46_sequencer.md R221), by which the block also returns from a failure
(60_exceptions.md R258). -/
def State.arm (s : State) (now : Time) : State :=
  { s with wr := 0, outstanding := true, armTime := now, valid := false, status := .none, armed := true }

/-- START(now) with all its cases (46_sequencer.md R221); READ_REQ runs it too (R222). -/
def startOp (now : Time) (s : State) : Host.Outcome State Fault Refusal :=
  if s.configured then
    if s.suppress then .next s
    else if s.armed then .next s
    else .next (s.arm now)
  else .refused .notConfigured

/-! ### FrameAssembler primitives -/

/-- The effect of EMIT(b) (41_frame_assembler.md R148): the 2nd, 4th, 6th ... emitted half-bit is kept. -/
def State.emitted (s : State) (b : Bool) : State :=
  { s with bits := if s.hc % 2 = 1 then s.bits.write (s.hc / 2) b else s.bits, hc := s.hc + 1 }

/-- EMIT(b) (41_frame_assembler.md R148), inside the bit space: `hc < 2 * P.CAP` (20_memory.md R68). -/
def emit (b : Bool) (s : State) : Host.Outcome State Fault Refusal :=
  withProfile s fun p => if s.hc < 2 * p.cap then .next (s.emitted b) else .fault .bitIndexOutOfRange

/-- A PulseCode that does not abort: ASSEMBLE's index moves to the next slot (41_frame_assembler.md R140). -/
def State.nextSlot (s : State) : State := { s with pos := s.pos + 1, result := none }

/-- Count one anomaly (41_frame_assembler.md R147). -/
def State.countAnomaly (s : State) : State := { s with ac := s.ac + 1 }

/-- ANOM(i) at slot `i = pos` (41_frame_assembler.md R147), aborting at the limit (R149). -/
def anom (s : State) : Host.Outcome State Fault Refusal :=
  if s.pos = 0 then .next s.nextSlot
  else if Config.anomLimit ≤ s.ac + 1 then .next (s.countAnomaly.withResult (some .anomalyOverrun))
  else .next s.countAnomaly.nextSlot

/-! ### Free values (93_implementation_defined.md U2) -/

/-- `bits` and `blen` are left unspecified, `blen` within its range (41_frame_assembler.md R149; assumption log 10). -/
def State.loseBits (s : State) (cap : Nat) : State :=
  { s with
    bits := (List.range cap).map fun k => (k, Config.freeBit (s.free + k))
    blen := Config.freeNat (s.free + cap) % (cap + 1)
    free := s.free + cap + 1 }

/-- `syncPos`, `start` and `inverted` are left unspecified, the indexes within their range
(42_frame_synchronizer.md R164; assumption log 11). -/
def State.loseSync (s : State) (cap : Nat) : State :=
  { s with
    syncPos := Config.freeNat s.free % (cap + 1)
    start := Config.freeNat (s.free + 1) % (cap + 1)
    inverted := Config.freeBit (s.free + 2)
    free := s.free + 3 }

end Sys2Proof.Machine
end

