-- ==== Sys2Proof/Machine/Operands.lean ====
section
/-!
DEFINITION. Operand assembly (30_encoding.md R106): the interval and its class, the PulseCode, bytes from the bit space,
the raw value and the signed value of a sensor field, bitmaps.
-/

namespace Sys2Proof.Machine

/-- `dt = (now - last) mod 2^W` (40_edge_sampler.md R121). -/
def interval (W : Nat) (now last : Time) : Nat := (((now : Int) - (last : Int)) % ((2 ^ W : Nat) : Int)).toNat

/-- CLASSIFY(dt, p) (40_edge_sampler.md R124), the tests in the order written there. -/
def classify (dt : Nat) (p : DeviceProfile) : PulseClass :=
  if 2 * p.minDouble ≤ dt then .lt
  else if p.maxDouble < dt then .ld
  else if p.minDouble ≤ dt then .dw
  else if p.maxSingle < dt then .bt
  else if dt < p.minSingle then .sh
  else .sw

/-- A byte from eight bits, the first into bit 0 (20_memory.md R62). -/
def packByte (bit : Nat → Bool) (o : Nat) : Byte :=
  BitVec.ofBoolListLE
    [bit o, bit (o + 1), bit (o + 2), bit (o + 3), bit (o + 4), bit (o + 5), bit (o + 6), bit (o + 7)]

/-- `frame[o+1] * 256 + frame[o]` (20_memory.md R63). -/
def word16 (byte : Nat → Byte) (o : Nat) : BitVec 16 := byte (o + 1) ++ byte o

/-- `sext16` (00_scope.md R13): the two's complement reading of 16 bits. -/
def sext16 (v : BitVec 16) : Int :=
  if v.toNat < 32768 then (v.toNat : Int) else (v.toNat : Int) - 65536

/-- Sign and magnitude of a sensor field (45_field_decoder.md R199). -/
def signedValue (raw : BitVec 16) : Int :=
  if raw.getLsbD 15 then sext16 (raw ||| 0xF000#16) else ((raw.extractLsb' 0 12).toNat : Int)

/-- The room mode of `raw[10:9]` (30_encoding.md R104). -/
def roomMode (m : BitVec 2) : RoomMode :=
  match m.toNat with
  | 0 => .auto
  | 1 => .normal
  | 2 => .lower
  | _ => .standby

end Sys2Proof.Machine
end

