-- ==== Sys2Proof/Machine/Flags.lean ====
section
/-!
DEFINITION. Predicates and codes computed from the state: `CC`, `phase`, the no-data guard, the identity and checksum
predicates, and the numeric codes of `status`, `res` and `phase`. The block has no arithmetic condition codes
(10_state.md R40).
-/

namespace Sys2Proof.Machine

/-- `CC`: capture-complete (10_state.md R25). -/
def State.captureComplete (s : State) : Bool := s.outstanding && !s.armed

/-- The derived phase (10_state.md R35). -/
def State.phase (s : State) : Phase :=
  if s.outstanding then
    if s.armed then (if s.wr = 0 then .armed else .capturing) else .captureComplete
  else
    match s.res with
    | .idle => .idle
    | .decoded => .decoded
    | .aborted => .aborted

/-- The no-data guard has run out at `now`: `(now - armTime) mod 2^W >= T_NODATA` (46_sequencer.md R223). -/
def State.guardExpired (s : State) (now : Time) : Bool :=
  decide (s.par.tNodata ≤ interval s.par.widths.time now s.armTime)

/-- CHKDEV's predicate (44_device_validator.md R185). -/
def devOk (p : DeviceProfile) (byte : Nat → Byte) : Bool :=
  decide (byte 0 = p.id0) &&
    match p.id1 with
    | none => true
    | some b => decide (byte 1 = b)

/-- The 8-bit truncated sum of bytes `[0, n)` (44_device_validator.md R186). -/
def byteSum (byte : Nat → Byte) : Nat → Byte
  | 0 => 0#8
  | n + 1 => byteSum byte n + byte n

/-- CHKCRC's predicate (44_device_validator.md R186). -/
def crcOk (p : DeviceProfile) (byte : Nat → Byte) : Bool :=
  decide (p.crcIdx = 0) || decide (byteSum byte p.crcIdx = byte p.crcIdx)

/-- 30_encoding.md R103. -/
def Status.code : Status → BitVec 4
  | .none => 0#4
  | .captureTimeout => 1#4
  | .anomalyOverrun => 2#4
  | .noFrame => 3#4
  | .frameTooShort => 4#4
  | .deviceMismatch => 5#4
  | .checksumMismatch => 6#4
  | .fieldOutOfRange => 7#4
  | .fieldNotPopulated => 8#4

/-- 30_encoding.md R100. -/
def Res.code : Res → BitVec 2
  | .idle => 0#2
  | .decoded => 1#2
  | .aborted => 2#2

/-- 30_encoding.md R100. -/
def Phase.code : Phase → BitVec 4
  | .idle => 0#4
  | .armed => 1#4
  | .capturing => 2#4
  | .captureComplete => 3#4
  | .assembling => 4#4
  | .synchronized => 5#4
  | .resyncInverted => 6#4
  | .noFrame => 7#4
  | .frameTooShort => 8#4
  | .trimmed => 9#4
  | .validated => 10#4
  | .deviceMismatch => 11#4
  | .checksumMismatch => 12#4
  | .decoded => 13#4
  | .aborted => 14#4

end Sys2Proof.Machine
end

