-- ==== Sys2Proof/Machine/DeviceValidator.lean ====
section
/-!
DEFINITION. The DeviceValidator: the stages CHKDEV and CHKCRC (44_device_validator.md).
-/

namespace Sys2Proof.Machine

/-- CHKDEV (44_device_validator.md R185). -/
def execChkdev (s : State) : Host.Outcome State Fault Refusal :=
  withProfile s fun p =>
    if p.idInside then
      .next (s.withResult (if devOk p s.readFrame then none else some .deviceMismatch))
    else .fault .frameByteOutOfRange

/-- CHKCRC (44_device_validator.md R186). -/
def execChkcrc (s : State) : Host.Outcome State Fault Refusal :=
  withProfile s fun p =>
    if p.crcIdx = 0 then .next (s.withResult none)
    else if p.crcIdx < p.len then
      .next (s.withResult (if crcOk p s.readFrame then none else some .checksumMismatch))
    else .fault .frameByteOutOfRange

end Sys2Proof.Machine
end

