-- ==== Sys2Proof/Machine/EdgeSampler.lean ====
section
/-!
DEFINITION. The EdgeSampler: the EDGE event (40_edge_sampler.md R120).
-/

namespace Sys2Proof.Machine

/-- Append one code (40_edge_sampler.md R126): the slot, then the index, then `armed`. -/
def State.storeCode (s : State) (cap : Nat) (c : PulseCode) : State :=
  { s with buf := s.buf.write s.wr c, wr := s.wr + 1, armed := s.armed && !decide (s.wr + 1 = cap) }

/-- EDGE(level, now) (40_edge_sampler.md R120). -/
def execEdge (level : Bool) (now : Time) (s : State) : Host.Outcome State Fault Refusal :=
  let dt := interval s.par.widths.time now s.lastEdgeTime
  let s1 := { s with lastEdgeTime := now }
  if s.armed then
    withProfile s1 fun p =>
      if s.wr < p.cap then .next (s1.storeCode p.cap (composeCode (classify dt p) level))
      else .fault .pulseSlotOutOfRange
  else .next s1

end Sys2Proof.Machine
end

