-- ==== Sys2Proof/Machine/FieldDecoder.lean ====
section
/-!
DEFINITION. The FieldDecoder: the GET_FIELD query (45_field_decoder.md).
-/

namespace Sys2Proof.Machine

/-- The result of a sensor field (45_field_decoder.md R198 to R205). -/
def sensorResult (m : TagMap) (raw : BitVec 16) : FieldResult :=
  if raw = 0#16 then .decodeFailure .fieldNotPopulated
  else
    match m.get (raw.extractLsb' 12 3) with
    | none => .decodeFailure .fieldNotPopulated
    | some .digital => .sensorReading (.digital (decide (signedValue raw ≠ 0)))
    | some .temperature => .sensorReading (.temperature (signedValue raw))
    | some .rays => .sensorReading (.rays (signedValue raw))
    | some .volumeFlow => .sensorReading (.volumeFlow (4 * signedValue raw))
    | some .room => .sensorReading (.room (raw.extractLsb' 0 9).toNat (roomMode (raw.extractLsb' 9 2)))

/-- SENSOR(index) (45_field_decoder.md R197). -/
def sensorField (p : DeviceProfile) (byte : Nat → Byte) (index : Nat) : Host.Outcome FieldResult Fault Refusal :=
  if index < p.fields.sensorCount then
    if p.fields.sensorBase + 2 * index + 1 < p.len then
      .next (sensorResult p.fields.tagMap (word16 byte (p.fields.sensorBase + 2 * index)))
    else .fault .frameByteOutOfRange
  else .next (.decodeFailure .fieldOutOfRange)

/-- The output bitmap (45_field_decoder.md R206): one byte, or two with the low byte first. -/
def outputWord (p : DeviceProfile) (byte : Nat → Byte) : BitVec 16 :=
  if p.fields.outBytes = 2 then word16 byte p.fields.outBase else (byte p.fields.outBase).setWidth 16

/-- OUTPUT(index) (45_field_decoder.md R206). -/
def outputField (p : DeviceProfile) (byte : Nat → Byte) (index : Nat) : Host.Outcome FieldResult Fault Refusal :=
  if index < 8 * p.fields.outBytes.val then
    if p.fields.outBase + p.fields.outBytes.val ≤ p.len then
      .next (.outputBit ((outputWord p byte).getLsbD index))
    else .fault .frameByteOutOfRange
  else .next (.decodeFailure .fieldOutOfRange)

/-- The result of a speed-step byte (45_field_decoder.md R207). -/
def speedResult (b : Byte) : FieldResult :=
  if b.getLsbD 7 then .decodeFailure .fieldNotPopulated else .speedStep (b.extractLsb' 0 5).toNat

/-- SPEED(index) (45_field_decoder.md R207). -/
def speedField (p : DeviceProfile) (byte : Nat → Byte) (index : Nat) : Host.Outcome FieldResult Fault Refusal :=
  if index < p.fields.speedCount then
    if p.fields.speedBase + index < p.len then .next (speedResult (byte (p.fields.speedBase + index)))
    else .fault .frameByteOutOfRange
  else .next (.decodeFailure .fieldOutOfRange)

/-- The result of an analog-output byte (45_field_decoder.md R208). -/
def analogResult (b : Byte) : FieldResult :=
  if b.getLsbD 7 then .decodeFailure .fieldNotPopulated else .analogValue (b.extractLsb' 0 7).toNat

/-- ANALOG(index) (45_field_decoder.md R208). -/
def analogField (p : DeviceProfile) (byte : Nat → Byte) (index : Nat) : Host.Outcome FieldResult Fault Refusal :=
  if index < p.fields.analogCount then
    if p.fields.analogBase + index < p.len then .next (analogResult (byte (p.fields.analogBase + index)))
    else .fault .frameByteOutOfRange
  else .next (.decodeFailure .fieldOutOfRange)

/-- The answer of a query on a validated frame, by group (45_field_decoder.md R195, R209, R210). -/
def groupField (p : DeviceProfile) (byte : Nat → Byte) (group : BitVec 3) (index : Nat) :
    Host.Outcome FieldResult Fault Refusal :=
  match group.toNat with
  | 0 => sensorField p byte index
  | 1 => outputField p byte index
  | 2 => speedField p byte index
  | 3 => analogField p byte index
  | 4 => .refused .heatPowerLayout
  | 5 => .refused .heatEnergyLayout
  | _ => .next (.decodeFailure .fieldOutOfRange)

/-- GET_FIELD(group, index) (45_field_decoder.md R195). -/
def execGetField (group : BitVec 3) (index : Nat) (s : State) : Host.Outcome State Fault Refusal :=
  if s.valid then
    withProfile s fun p => andThen (groupField p s.readFrame group index) fun r => .next (s.answer r)
  else .next (s.answer (.decodeFailure s.status))

end Sys2Proof.Machine
end

