-- ==== Sys2Proof/Machine/FrameAssembler.lean ====
section
/-!
DEFINITION. The FrameAssembler: the six PulseCode operations and the stage ASSEMBLE (41_frame_assembler.md).
-/

namespace Sys2Proof.Machine

/-- SW L (41_frame_assembler.md R141). -/
def execSw (level : Bool) (s : State) : Host.Outcome State Fault Refusal :=
  andThen (emit level s) fun t => .next t.nextSlot

/-- DW L (41_frame_assembler.md R142). -/
def execDw (level : Bool) (s : State) : Host.Outcome State Fault Refusal :=
  andThen (emit (!level) s) fun t => andThen (emit level t) fun u => .next u.nextSlot

/-- SH L (41_frame_assembler.md R143); the level is not used. -/
def execSh (_level : Bool) (s : State) : Host.Outcome State Fault Refusal := anom s

/-- BT L (41_frame_assembler.md R144); the level is not used. -/
def execBt (_level : Bool) (s : State) : Host.Outcome State Fault Refusal := anom s

/-- LD L (41_frame_assembler.md R145); the level is not used. -/
def execLd (_level : Bool) (s : State) : Host.Outcome State Fault Refusal := anom s

/-- The previous slot is exactly DW with level 1 (41_frame_assembler.md R146). -/
def State.afterDw1 (s : State) : Bool :=
  decide (1 ≤ s.pos) && decide (s.readCode (s.pos - 1) = composeCode .dw true)

/-- LT L (41_frame_assembler.md R146): merged anomaly, seed, or an ordinary anomaly, tested in this order. -/
def execLt (level : Bool) (s : State) : Host.Outcome State Fault Refusal :=
  if s.afterDw1 then
    andThen (emit false s) fun t => andThen (emit true t) fun u => .next u.nextSlot
  else if s.pos = 0 then
    if s.par.seedEmit then andThen (emit level s) fun t => .next t.nextSlot
    else .next s.nextSlot
  else anom s

/-- Interpret one PulseCode at slot `pos` (41_frame_assembler.md R140); classes 6 and 7 are refused (R151). -/
def execSlot (c : PulseCode) (s : State) : Host.Outcome State Fault Refusal :=
  match decodeClass (codeClass c) with
  | some .sw => execSw (codeLevel c) s
  | some .dw => execDw (codeLevel c) s
  | some .sh => execSh (codeLevel c) s
  | some .bt => execBt (codeLevel c) s
  | some .ld => execLd (codeLevel c) s
  | some .lt => execLt (codeLevel c) s
  | none => .refused .reservedPulseCode

/-- The loop of ASSEMBLE over the next `n` slots, ending early on an abort (41_frame_assembler.md R140). -/
def assembleLoop : Nat → State → Host.Outcome State Fault Refusal
  | 0, s => .next s
  | n + 1, s =>
    andThen (execSlot (s.readCode s.pos) s) fun t =>
      match t.result with
      | some _ => .next t
      | none => assembleLoop n t

/-- ASSEMBLE's first line, `hc <- 0 ; ac <- 0`, with the loop at slot 0. -/
def State.beginAssemble (s : State) : State := { s with hc := 0, ac := 0, pos := 0, result := none }

/-- ASSEMBLE's end (41_frame_assembler.md R149, R150). -/
def State.endAssemble (s : State) (cap : Nat) : State :=
  match s.result with
  | some _ => s.loseBits cap
  | none => { s with blen := s.hc / 2 }

/-- ASSEMBLE (41_frame_assembler.md R140). -/
def execAssemble (s : State) : Host.Outcome State Fault Refusal :=
  withProfile s fun p => andThen (assembleLoop p.cap s.beginAssemble) fun t => .next (t.endAssemble p.cap)

end Sys2Proof.Machine
end

