-- ==== Sys2Proof/Machine/FrameSynchronizer.lean ====
section
/-!
DEFINITION. The FrameSynchronizer: the stage SYNC (42_frame_synchronizer.md).
-/

namespace Sys2Proof.Machine

/-- `n` consecutive 1-bits from index `j`. -/
def onesFrom (bit : Nat → Bool) : Nat → Nat → Bool
  | 0, _ => true
  | n + 1, j => bit j && onesFrom bit n (j + 1)

/-- The first of the `n` indexes from `j` at which a SYNC run begins. -/
def scanFrom (bit : Nat → Bool) : Nat → Nat → Option Nat
  | 0, _ => none
  | n + 1, j => if onesFrom bit Config.syncLen j then some j else scanFrom bit n (j + 1)

/-- SCAN16 (42_frame_synchronizer.md R161): the smallest `s` with `s + 15 < blen` and 16 ones from `s`. -/
def scan16 (bit : Nat → Bool) (blen : Nat) : Option Nat := scanFrom bit (blen + 1 - Config.syncLen) 0

/-- Skip ones over at most `n` indexes from `j`. -/
def skipFrom (bit : Nat → Bool) : Nat → Nat → Nat
  | 0, j => j
  | n + 1, j => if bit j then skipFrom bit n (j + 1) else j

/-- SKIP1 (42_frame_synchronizer.md R162): the smallest `j >= j0` with `j = blen` or `bits[j] = 0`. -/
def skip1 (bit : Nat → Bool) (blen j0 : Nat) : Nat := skipFrom bit (blen - j0) j0

/-- Complement the elements `0 .. n-1`. -/
def flipBits (bit : Nat → Bool) : Nat → Memory Bool → Memory Bool
  | 0, m => m
  | n + 1, m => (flipBits bit n m).write n (!bit n)

/-- INVERT (42_frame_synchronizer.md R163). -/
def State.invert (s : State) : State := { s with bits := flipBits s.readBit s.blen s.bits }

/-- A run was found at `q` on attempt `inv`: SYNC's assignments and its test (42_frame_synchronizer.md R160, R165). -/
def State.locate (s : State) (p : DeviceProfile) (inv : Bool) (q : Nat) : State :=
  let st := skip1 s.readBit s.blen (q + Config.syncLen)
  { s with
    syncPos := q
    start := st
    inverted := inv
    result := if s.blen - st < p.minBits then some .frameTooShort else none }

/-- The two attempts (42_frame_synchronizer.md R160). -/
def State.synced (s : State) (p : DeviceProfile) : State :=
  match scan16 s.readBit s.blen with
  | some q => s.locate p false q
  | none =>
    match scan16 s.invert.readBit s.blen with
    | some q => s.invert.locate p true q
    | none => (s.invert.loseSync p.cap).withResult (some .noFrame)

/-- SYNC (42_frame_synchronizer.md R160), inside the bit space: `blen <= P.CAP` (10_state.md R31). -/
def execSync (s : State) : Host.Outcome State Fault Refusal :=
  withProfile s fun p => if s.blen ≤ p.cap then .next (s.synced p) else .fault .bitIndexOutOfRange

end Sys2Proof.Machine
end

