-- ==== Sys2Proof/Machine/FrameTrimmer.lean ====
section
/-!
DEFINITION. The FrameTrimmer: the stage TRIM (43_frame_trimmer.md R175).
-/

namespace Sys2Proof.Machine

/-- Bytes `0 .. n-1` of the frame, byte `k` from the bits at offsets 1 to 8 of its byte frame. -/
def trimBytes (bit : Nat → Bool) (start : Nat) : Nat → Memory Byte → Memory Byte
  | 0, m => m
  | n + 1, m => (trimBytes bit start n m).write n (packByte bit (start + Config.byteBits * n + 1))

/-- TRIM's assignments (43_frame_trimmer.md R175). -/
def State.trimmed (s : State) (p : DeviceProfile) : State :=
  { s with frame := trimBytes s.readBit s.start p.len s.frame, result := none }

/-- TRIM (43_frame_trimmer.md R175); the highest index it reads is `start + 10*P.N - 2` (20_memory.md R68). -/
def execTrim (s : State) : Host.Outcome State Fault Refusal :=
  withProfile s fun p =>
    if s.start + Config.byteBits * p.len < s.blen + 2 then .next (s.trimmed p) else .fault .bitIndexOutOfRange

end Sys2Proof.Machine
end

