-- ==== Sys2Proof/Machine/Sequencer.lean ====
section
/-!
DEFINITION. The sequencer: CONFIG, START, READ_REQ, POLL, the stage COMMIT, and PROCESS (46_sequencer.md).
-/

namespace Sys2Proof.Machine

/-- CONFIG's assignments (46_sequencer.md R220). -/
def State.configure (s : State) (model : BitVec 2) (pin : Nat) (pinmode : BitVec 2) : State :=
  { s with model := model, pin := pin, pinmode := pinmode, configured := true
           wr := 0, outstanding := false, suppress := false
           valid := false, status := .none, res := .idle }

/-- CONFIG(model, pin, pinmode) (46_sequencer.md R220). -/
def execConfig (model : BitVec 2) (pin : Nat) (pinmode : BitVec 2) (s : State) :
    Host.Outcome State Fault Refusal :=
  if s.armed then .refused .configWhileArmed
  else if pinmode = 3#2 then .refused .reservedPinmode
  else if (s.par.profiles.get model).wellFormed s.par.widths.time then .next (s.configure model pin pinmode)
  else .refused .malformedProfile

/-- START(now) (46_sequencer.md R221). -/
def execStart (now : Time) (s : State) : Host.Outcome State Fault Refusal := startOp now s

/-- READ_REQ(now) (46_sequencer.md R222). -/
def execReadReq (now : Time) (s : State) : Host.Outcome State Fault Refusal :=
  if s.configured then startOp now { s with suppress := false } else .refused .notConfigured

/-- COMMIT's assignments (46_sequencer.md R227). -/
def State.committed (s : State) : State :=
  { s with valid := true, status := .none, res := .decoded, result := none }

/-- COMMIT (46_sequencer.md R227). -/
def execCommit (s : State) : Host.Outcome State Fault Refusal := .next s.committed

/-- Run the stages in order; the first that fails ends the cycle with FAIL (46_sequencer.md R225). -/
def runStages : List (State → Host.Outcome State Fault Refusal) → State → Host.Outcome State Fault Refusal
  | [], s => .next s
  | stage :: rest, s =>
    andThen (stage s) fun t =>
      match t.result with
      | some c => .next (t.fail c)
      | none => runStages rest t

/-- The stages in the order of their codes (30_encoding.md R99). -/
def stages : List (State → Host.Outcome State Fault Refusal) :=
  [execAssemble, execSync, execTrim, execChkdev, execChkcrc, execCommit]

/-- PROCESS (46_sequencer.md R225): the capture is consumed, never twice. -/
def process (s : State) : Host.Outcome State Fault Refusal := runStages stages { s with outstanding := false }

/-- POLL(now) (46_sequencer.md R223). -/
def execPoll (now : Time) (s : State) : Host.Outcome State Fault Refusal :=
  if s.outstanding then
    if s.armed then
      if s.wr = 0 ∧ s.guardExpired now = true then .next s.timeout else .next s
    else process s
  else .next s

end Sys2Proof.Machine
end

