-- ==== Sys2Proof/Machine/Dispatch.lean ====
section
/-!
DEFINITION. The meaning of every operation: one arm per constructor of Instr.
-/

namespace Sys2Proof.Machine

def exec (i : Instr) (s : State) : Host.Outcome State Fault Refusal :=
  match i with
  -- events (30_encoding.md R97)
  | .edge level now => Sys2Proof.Machine.execEdge level now s
  | .config model pin pinmode => Sys2Proof.Machine.execConfig model pin pinmode s
  | .start now => Sys2Proof.Machine.execStart now s
  | .readReq now => Sys2Proof.Machine.execReadReq now s
  | .poll now => Sys2Proof.Machine.execPoll now s
  | .getField group index => Sys2Proof.Machine.execGetField group index s
  -- stages (30_encoding.md R99)
  | .assemble => Sys2Proof.Machine.execAssemble s
  | .sync => Sys2Proof.Machine.execSync s
  | .trim => Sys2Proof.Machine.execTrim s
  | .chkdev => Sys2Proof.Machine.execChkdev s
  | .chkcrc => Sys2Proof.Machine.execChkcrc s
  | .commit => Sys2Proof.Machine.execCommit s
  -- PulseCodes (30_encoding.md R91)
  | .sw level => Sys2Proof.Machine.execSw level s
  | .dw level => Sys2Proof.Machine.execDw level s
  | .sh level => Sys2Proof.Machine.execSh level s
  | .bt level => Sys2Proof.Machine.execBt level s
  | .ld level => Sys2Proof.Machine.execLd level s
  | .lt level => Sys2Proof.Machine.execLt level s

end Sys2Proof.Machine
end

