-- ==== Sys2Proof/Machine/Step.lean ====
section
/-!
DEFINITION. One step: the block takes the oldest pending event and runs it (00_scope.md R10, 46_sequencer.md R229).
-/

namespace Sys2Proof.Machine

/-- One atomic step. With no event pending nothing happens: the block acts only on events (60_exceptions.md R253).
A word that is no event is refused (46_sequencer.md R230). The state an event's operation works on is the state with that
event taken from the list. -/
def step (s : State) : Host.Outcome State Fault Refusal :=
  match s.inbox with
  | [] => .next s
  | w :: rest =>
    match decode s.par.widths (.evt w) with
    | .ok i => exec i { s with inbox := rest }
    | .error e => .refused (.undecodable e)

/-- `s` with the event of the table word `w` as the next event the block takes (assumption log 2). -/
def State.withFetchWord (s : State) (nbits w : Nat) : State := { s with inbox := eventWordOf nbits w :: s.inbox }

end Sys2Proof.Machine
end

