-- ==== Sys2Proof/Machine/Stimulus.lean ====
section
/-!
DEFINITION. The pseudo-operations of 30_encoding.md R108, the inverse of the decoder, used only to say what a line
carries: BYTEFRAME, TELEGRAM, HALVES, PULSES. They are inputs of the block, no part of it.
-/

namespace Sys2Proof.Machine

/-- BYTEFRAME(v): start bit 0, eight data bits, the least significant first, stop bit 1. -/
def byteFrame (v : Byte) : List Bool :=
  [false, v.getLsbD 0, v.getLsbD 1, v.getLsbD 2, v.getLsbD 3, v.getLsbD 4, v.getLsbD 5, v.getLsbD 6, v.getLsbD 7, true]

/-- TELEGRAM(b0 .. bN-1): sixteen 1-bits, then the byte frames. -/
def telegram (bytes : List Byte) : List Bool := List.replicate Config.syncLen true ++ bytes.flatMap byteFrame

/-- HALVES(bits, pol): each bit `b` as the two half-bit levels `~b, b`, or `b, ~b` when `pol` is 1. -/
def halves (pol : Bool) (bits : List Bool) : List Bool :=
  bits.flatMap fun b => if pol then [b, !b] else [!b, b]

/-- PULSES: the EDGE events of the levels that follow `last`, the next of them lasting from `t`. -/
def pulsesFrom (T : Nat) : Bool → Nat → List Bool → List Instr
  | _, _, [] => []
  | last, t, h :: hs =>
    if h = last then pulsesFrom T h (t + T) hs
    else .edge h t :: pulsesFrom T h (t + T) hs

/-- PULSES(h, T, t0): one EDGE at every index `i >= 1` whose level differs from the one before it. -/
def pulses (T t0 : Nat) : List Bool → List Instr
  | [] => []
  | h :: hs => pulsesFrom T h (t0 + T) hs

/-- The PulseCodes of the levels that follow `last`, whose run so far is `run` half-bits long, for a line on which one
half-bit is a single and two are a double interval (30_encoding.md R93). -/
def codesFrom : Bool → Nat → List Bool → List PulseCode
  | _, _, [] => []
  | last, run, h :: hs =>
    if h = last then codesFrom h (run + 1) hs
    else composeCode (if run = 1 then .sw else .dw) h :: codesFrom h 1 hs

end Sys2Proof.Machine
end

