-- ==== Sys2Proof/Machine/StreamView.lean ====
section
/-!
DEFINITION. ASSEMBLE "as a function of a code list of any length" (41_frame_assembler.md R140), written on lists and
apart from the machine, so that claims can hold the machine's loop against it. The machine does not use this file.
-/

namespace Sys2Proof.Machine

/-- What one PulseCode does: emit these half-bits, count one anomaly, or have no meaning. -/
inductive SlotView where
  | emits (hs : List Bool)
  | counts
  | refuses
  deriving DecidableEq, Repr

/-- The code `c` in slot `i` after the code `prev` (41_frame_assembler.md R141 to R147, R151). -/
def slotView (seed : Bool) (i : Nat) (prev c : PulseCode) : SlotView :=
  match decodeClass (codeClass c) with
  | some .sw => .emits [codeLevel c]
  | some .dw => .emits [!codeLevel c, codeLevel c]
  | some .sh => if i = 0 then .emits [] else .counts
  | some .bt => if i = 0 then .emits [] else .counts
  | some .ld => if i = 0 then .emits [] else .counts
  | some .lt =>
    if i ≠ 0 ∧ prev = 3#4 then .emits [false, true]
    else if i = 0 then .emits (if seed then [codeLevel c] else [])
    else .counts
  | none => .refuses

/-- What a code list does: the half-bits in order and the anomaly count, an AnomalyOverrun, or no meaning. -/
inductive StreamView where
  | done (hs : List Bool) (anomalies : Nat)
  | overrun
  | reserved
  deriving DecidableEq, Repr

/-- Half-bits emitted before the rest. -/
def StreamView.after (hs : List Bool) : StreamView → StreamView
  | .done rest n => .done (hs ++ rest) n
  | .overrun => .overrun
  | .reserved => .reserved

/-- The codes from slot `i` on, after the code `prev` and with `ac` anomalies counted (41_frame_assembler.md R140, R149). -/
def streamView (seed : Bool) : Nat → PulseCode → Nat → List PulseCode → StreamView
  | _, _, ac, [] => .done [] ac
  | i, prev, ac, c :: cs =>
    match slotView seed i prev c with
    | .emits hs => (streamView seed (i + 1) c ac cs).after hs
    | .counts => if 5 ≤ ac + 1 then .overrun else streamView seed (i + 1) c (ac + 1) cs
    | .refuses => .reserved

/-- The second of each pair of half-bits (41_frame_assembler.md R148, R150). -/
def keptHalves : List Bool → List Bool
  | _ :: b :: hs => b :: keptHalves hs
  | _ => []

/-- How many of the codes from slot `i` on are counted anomalies (41_frame_assembler.md R147). -/
def countedAnomalies (seed : Bool) : Nat → PulseCode → List PulseCode → Nat
  | _, _, [] => 0
  | i, prev, c :: cs =>
    (if slotView seed i prev c = .counts then 1 else 0) + countedAnomalies seed (i + 1) c cs

/-- The codes ASSEMBLE walks: slots `0 .. CAP-1` in order. -/
def State.codes (s : State) : List PulseCode := (List.range s.profile.cap).map s.readCode

/-- The levels after `last`, whose run so far is `run` long, have no run longer than two half-bits
(30_encoding.md R93). -/
def runsAtMostTwo : Bool → Nat → List Bool → Bool
  | _, run, [] => decide (run ≤ 2)
  | last, run, h :: hs =>
    if h = last then decide (run + 1 ≤ 2) && runsAtMostTwo h (run + 1) hs else decide (run ≤ 2) && runsAtMostTwo h 1 hs

/-- The last of the levels repeats the one before it, where `last` stands before them all. -/
def endsRepeated : Bool → List Bool → Bool
  | _, [] => false
  | last, [h] => h == last
  | _, h :: k :: hs => endsRepeated h (k :: hs)

end Sys2Proof.Machine
end

