-- ==== Sys2Proof/Safety.lean ====
section
/-!
DEFINITION. The terms claims are stated in: the spec's reset, the invariant of every reachable state (10_state.md R37),
what a run of events is, and what a SYNC run and an emission are.
-/

namespace Sys2Proof.Machine

/-- The reset of 10_state.md R41: the named fields have their values, every other register has ANY value of its width. The spaces hold
anything in canonical form and the model's own fields are as a run begins: no output yet. -/
structure State.IsReset (s : State) : Prop where
  armed : s.armed = false
  outstanding : s.outstanding = false
  suppress : s.suppress = false
  configured : s.configured = false
  wr : s.wr = 0
  valid : s.valid = false
  status : s.status = .none
  res : s.res = .idle
  /-- Any value of its width. -/
  widths : s.lastEdgeTime < 2 ^ s.par.widths.time ∧ s.armTime < 2 ^ s.par.widths.time ∧ s.pin < 2 ^ s.par.widths.pin
  spaces : s.spacesWf = true
  outs : s.outs = []

/-- The invariant: items 1, 2, 3, 4 and 6 of 10_state.md R37 and what the operation rules need beside them (item 5, on
`armTime`, is `Obligations.CapturesBeginOnlyWithTheirArmTime`). -/
structure State.Inv (s : State) : Prop where
  /-- R37 item 1 -/
  armed : s.armed = true →
    s.outstanding = true ∧ s.configured = true ∧ s.suppress = false ∧ s.wr < s.profile.cap
  /-- R37 item 2 -/
  complete : s.outstanding = true → s.armed = false → s.wr = s.profile.cap
  /-- R37 item 3 -/
  wrBound : s.configured = true → s.wr ≤ s.profile.cap
  /-- R37 item 4 -/
  valid : s.valid = true → s.res = .decoded ∧ s.outstanding = false ∧ s.status = .none
  /-- R37 item 6 -/
  suppress : s.suppress = true →
    s.armed = false ∧ s.outstanding = false ∧ s.status = .captureTimeout ∧ s.res = .aborted
  /-- START is refused while unconfigured (46_sequencer.md R221). -/
  outstandingConfigured : s.outstanding = true → s.configured = true
  /-- CONFIG refuses any other profile and input mode 3 (46_sequencer.md R220). -/
  profile : s.configured = true → s.profile.wellFormed s.par.widths.time = true ∧ s.pinmode ≠ 3#2
  /-- No reachable run reads a reserved PulseCode (30_encoding.md R92). -/
  slots : ∀ i, i < s.wr → ∃ c, s.buf.find i = some c ∧ decodeClass (codeClass c) ≠ none
  /-- Both checks passed before `valid` became 1, and the whole frame was written (44_device_validator.md R187). -/
  checked : s.valid = true → s.configured = true ∧ devOk s.profile s.readFrame = true ∧
    crcOk s.profile s.readFrame = true ∧ ∀ k, k < s.profile.len → ∃ b, s.frame.find k = some b
  /-- The field-level codes are never stored (10_state.md R34). -/
  statusCycle : s.status ≠ .fieldOutOfRange ∧ s.status ≠ .fieldNotPopulated
  /-- The phase Decoded means a readable frame (46_sequencer.md R227). -/
  decoded : s.outstanding = false → s.res = .decoded → s.valid = true
  /-- The registers whose width is a parameter fit it (00_scope.md R6, 10_state.md R21, R26, R28). -/
  widths : s.lastEdgeTime < 2 ^ s.par.widths.time ∧ s.armTime < 2 ^ s.par.widths.time ∧ s.pin < 2 ^ s.par.widths.pin
  /-- The storage spaces are in canonical form. -/
  spaces : s.spacesWf = true

/-- An event, the only kind of operation the environment can ask for (30_encoding.md R97). -/
def isEvent (i : Instr) : Prop := i.format = .evt

/-- The events of a list, one after the other. -/
def runEvents : List Instr → State → Host.Outcome State Fault Refusal
  | [], s => .next s
  | i :: is, s => andThen (exec i s) (runEvents is)

/-- 16 consecutive 1-bits from `q` inside the stream (42_frame_synchronizer.md R161). -/
def RunAt (bit : Nat → Bool) (blen q : Nat) : Prop := q + 15 < blen ∧ ∀ m, m < 16 → bit (q + m) = true

/-- The first of them. -/
def FirstRunAt (bit : Nat → Bool) (blen q : Nat) : Prop :=
  RunAt bit blen q ∧ ∀ r, r < q → ¬ RunAt bit blen r

/-- `j` is the smallest index from `j0` on with `j = blen` or a 0 (42_frame_synchronizer.md R162). -/
def FirstZeroFrom (bit : Nat → Bool) (blen j0 j : Nat) : Prop :=
  j0 ≤ j ∧ j ≤ blen ∧ (j = blen ∨ bit j = false) ∧ ∀ k, j0 ≤ k → k < j → bit k = true

/-- `t` is `s` after the half-bits `hs` went through EMIT (41_frame_assembler.md R148): half-bit number `n` of this
ASSEMBLE, counted from 0, is kept at `bits[n div 2]` when `n` is odd and dropped otherwise. -/
def Emitted (s t : State) (hs : List Bool) : Prop :=
  t.hc = s.hc + hs.length ∧
  ∀ k, t.readBit k =
    if s.hc ≤ 2 * k + 1 ∧ 2 * k + 1 < s.hc + hs.length then hs.getD (2 * k + 1 - s.hc) false else s.readBit k

/-- The reports among the outputs, in order (60_exceptions.md R264). -/
def reportsOf : List Output → List Status
  | [] => []
  | .report c :: os => c :: reportsOf os
  | .field _ :: os => reportsOf os

/-- The elements of the bit space, `blen` of them, are the list `l`. -/
def State.holdsBits (s : State) (l : List Bool) : Prop :=
  s.blen = l.length ∧ ∀ k, k < l.length → s.readBit k = l.getD k false

/-- A state apart from the two configuration registers no rule reads (10_state.md R28). -/
def State.withPins (s : State) (pin : Nat) (pinmode : BitVec 2) : State := { s with pin := pin, pinmode := pinmode }

end Sys2Proof.Machine
end

