-- ==== Sys2Proof/Certificates/Slice0/Obligations.lean ====
section
/-!
DEFINITION. The statements for the provers. A frame is written `t = { s with f := t.f, ... }`: only the fields named
there may differ. "Derived" and "stated" are as OBLIGATIONS.json says; a docstring names the log entry where a
clause is the model's own choice.
-/

open Sys2Proof Sys2Proof.Machine

/-! ### Events, encoding, decoding -/

/-- The block takes the oldest pending event and runs its operation on the state without it; a word that is no event is
refused; with no event pending nothing happens (model's choice: log entry 1). -/
def Obligations.StepRunsTheDecodedEvent : Prop :=
  ∀ s : State,
    (s.inbox = [] → step s = .next s) ∧
    ∀ w rest, s.inbox = w :: rest →
      (∀ i, decode s.par.widths (.evt w) = .ok i → step s = exec i { s with inbox := rest }) ∧
      (∀ e, decode s.par.widths (.evt w) = .error e → step s = .refused (.undecodable e))

/-- Words written out from the code tables (30_encoding.md R91, R97, R99) decode to the operations they stand for; the
places of the event operands are the model's choice (log entry 3), read at the default widths (log entries 4, 6). -/
def Obligations.WordsOfTheTablesDecode : Prop :=
  decode Widths.default (.evt 0x00001B5809) = .ok (.edge true 7000) ∧
  decode Widths.default (.evt 0x0000000222) = .ok (.config 0#2 2 1#2) ∧
  decode Widths.default (.evt 0x0000157C03) = .ok (.start 5500) ∧
  decode Widths.default (.evt 0x00061A8004) = .ok (.readReq 400000) ∧
  decode Widths.default (.evt 0x00015F9005) = .ok (.poll 90000) ∧
  decode Widths.default (.evt 0x000000011E) = .ok (.getField 3#3 1) ∧
  decode Widths.default (.stg 0b000#3) = .ok .assemble ∧ decode Widths.default (.stg 0b101#3) = .ok .commit ∧
  decode Widths.default (.pc 0b0001#4) = .ok (.sw true) ∧ decode Widths.default (.pc 0b0010#4) = .ok (.dw false) ∧
  decode Widths.default (.pc 0b0101#4) = .ok (.sh true) ∧ decode Widths.default (.pc 0b0110#4) = .ok (.bt false) ∧
  decode Widths.default (.pc 0b1001#4) = .ok (.ld true) ∧ decode Widths.default (.pc 0b1010#4) = .ok (.lt false)

/-- Every operation that can be written is read back from its word (30_encoding.md R90, R91, R97, R99; the event word
above its code is the model's choice, log entry 3). -/
def Obligations.DecodeOfEncodeIsIdentity : Prop :=
  ∀ (W : Widths) (i : Instr), i.wellFormed W = true → decode W (encode i) = .ok i

/-- Every word that decodes is the word of its operation: no two words mean the same and no bit is ignored. Of the PC and STG
words this is 30_encoding.md R90, R91, R99; of the event words it is the model's own layout, in which a bit that holds no
operand is refused when it is 1 (DESIGN CHOICE, log entry 3). -/
def Obligations.EncodeOfDecodeIsIdentity : Prop :=
  ∀ (W : Widths) (w : OpWord) (i : Instr), decode W w = .ok i → encode i = w ∧ i.wellFormed W = true

/-- Event codes 0 and 7, stage codes 6 and 7 and class codes 6 and 7 are refused by name, and so is an event whose `now`,
`pin` or `index` is wider than its parameter says (46_sequencer.md R230, 41_frame_assembler.md R151; that such a word
exists at all is the model's layout, log entry 3). -/
def Obligations.ReservedCodesAreRefused : Prop :=
  (∀ (s : State) (w : EventWord) (rest : List EventWord), s.inbox = w :: rest →
    w % 8 = 0 ∨ w % 8 = 7 →
    step s = .refused (.undecodable (.reservedEvent (w % 8)))) ∧
  (∀ (W : Widths) (i : Instr), isEvent i → i.wellFormed W = false →
    decode W (encode i) = .error .operandOutOfRange) ∧
  (∀ W : Widths, decode W (.stg 6#3) = .error (.reservedStage 6) ∧ decode W (.stg 7#3) = .error (.reservedStage 7)) ∧
  (∀ (W : Widths) (c : PulseCode), codeClass c = 6#3 ∨ codeClass c = 7#3 →
    decode W (.pc c) = .error (.reservedClass (codeClass c).toNat)) ∧
  (∀ s : State, s.configured = true → 1 ≤ s.profile.cap →
    codeClass (s.readCode 0) = 6#3 ∨ codeClass (s.readCode 0) = 7#3 →
    exec .assemble s = .refused .reservedPulseCode)

/-! ### Reset -/

/-- The reset state holds what 10_state.md R41's table gives, and its phase is Idle. What it holds elsewhere is the
model's choice (log entry 8) and no part of this statement. -/
def Obligations.ResetHoldsTheResetTable : Prop :=
  State.reset.IsReset ∧ State.reset.phase = .idle

/-- From any state the spec's reset allows, whatever the unspecified registers hold, the invariant holds
(10_state.md R37, R41). -/
def Obligations.EveryResetStateMeetsTheInvariant : Prop :=
  ∀ s : State, s.IsReset → s.Inv

/-! ### EDGE and the classifier -/

/-- EDGE while not armed changes `lastEdgeTime` and nothing else (40_edge_sampler.md R122, R123). -/
def Obligations.EdgeWhileUnarmedMovesOnlyTheTimestamp : Prop :=
  ∀ (s : State) (level : Bool) (now : Time), s.armed = false →
    exec (.edge level now) s = .next { s with lastEdgeTime := now }

/-- EDGE while armed stores exactly one code at `buf[wr]`, its class that of the interval since the last EDGE and its
level the operand's, moves `wr` on by one, and clears `armed` exactly when the buffer is now full
(40_edge_sampler.md R120, R121, R122, R125, R126). -/
def Obligations.EdgeWhileArmedAppendsTheClassifiedCode : Prop :=
  ∀ (s : State) (level : Bool) (now : Time),
    s.armed = true → s.configured = true → s.wr < s.profile.cap →
    ∃ t, exec (.edge level now) s = .next t ∧
      t = { s with lastEdgeTime := now, buf := t.buf, wr := s.wr + 1, armed := t.armed } ∧
      (t.armed = false ↔ s.wr + 1 = s.profile.cap) ∧
      codeLevel (t.readCode s.wr) = level ∧
      codeClass (t.readCode s.wr) = (classify (interval s.par.widths.time now s.lastEdgeTime) s.profile).code ∧
      ∀ i, i ≠ s.wr → t.readCode i = s.readCode i

/-- For a well-formed profile the six classes are the six bands of 40_edge_sampler.md R124, tests in its order (a double
band that reaches `2 * minDouble` ends there). -/
def Obligations.ClassifyIsThePartition : Prop :=
  ∀ (W : Nat) (p : DeviceProfile) (dt : Nat), p.wellFormed W = true →
    (classify dt p = .sh ↔ dt < p.minSingle) ∧
    (classify dt p = .sw ↔ p.minSingle ≤ dt ∧ dt ≤ p.maxSingle) ∧
    (classify dt p = .bt ↔ p.maxSingle < dt ∧ dt < p.minDouble) ∧
    (classify dt p = .dw ↔ p.minDouble ≤ dt ∧ dt ≤ p.maxDouble ∧ dt < 2 * p.minDouble) ∧
    (classify dt p = .ld ↔ p.maxDouble < dt ∧ dt < 2 * p.minDouble) ∧
    (classify dt p = .lt ↔ 2 * p.minDouble ≤ dt)

/-- The interval between two timestamps `d` apart on a counter of `W` bits is `d` modulo `2^W`, across a wrap of the counter
too, so a pause of `2^W` or more aliases (40_edge_sampler.md R121, 70_reset_and_hazards.md R284). It holds for every width
W; that W is 32 is the value of the parameter at reset only (PRESUMED, log entry 6). -/
def Obligations.IntervalsAreModular : Prop :=
  ∀ (W : Nat) (t : Time) (d : Nat), interval W ((t + d) % 2 ^ W) t = d % 2 ^ W

/-! ### PulseCodes -/

/-- SW emits one half-bit, its level (41_frame_assembler.md R141, R148). -/
def Obligations.SwEmitsItsLevel : Prop :=
  ∀ (s : State) (L : Bool), s.configured = true → s.hc < 2 * s.profile.cap →
    ∃ t, exec (.sw L) s = .next t ∧ Emitted s t [L] ∧
      t = { s with hc := t.hc, bits := t.bits, pos := s.pos + 1, result := none }

/-- DW emits two half-bits, the complement of its level and then its level (41_frame_assembler.md R142, R148). -/
def Obligations.DwEmitsComplementThenLevel : Prop :=
  ∀ (s : State) (L : Bool), s.configured = true → s.hc + 1 < 2 * s.profile.cap →
    ∃ t, exec (.dw L) s = .next t ∧ Emitted s t [!L, L] ∧
      t = { s with hc := t.hc, bits := t.bits, pos := s.pos + 1, result := none }

/-- SH, BT and LD emit nothing; in slot 0 they count nothing, elsewhere they count one anomaly, and the fifth counted one
aborts ASSEMBLE (41_frame_assembler.md R143, R144, R145, R147, R149). -/
def Obligations.AnomaliesCountAndTheFifthAborts : Prop :=
  ∀ (s : State) (L : Bool) (i : Instr), i = .sh L ∨ i = .bt L ∨ i = .ld L →
    (s.pos = 0 → exec i s = .next { s with pos := 1, result := none }) ∧
    (s.pos ≠ 0 → s.ac < 4 → exec i s = .next { s with ac := s.ac + 1, pos := s.pos + 1, result := none }) ∧
    (s.pos ≠ 0 → 4 ≤ s.ac → exec i s = .next { s with ac := s.ac + 1, result := some .anomalyOverrun })

/-- LT right after DW1 is a merged anomaly and emits 0, 1 whatever its own level; in slot 0 it emits its level once when
SEED_EMIT is true and nothing otherwise; anywhere else it counts as an anomaly (41_frame_assembler.md R146, R147, R149). -/
def Obligations.LtMergesSeedsOrCounts : Prop :=
  ∀ (s : State) (L : Bool),
    (s.pos ≠ 0 → s.readCode (s.pos - 1) = composeCode .dw true → s.configured = true →
      s.hc + 1 < 2 * s.profile.cap →
      ∃ t, exec (.lt L) s = .next t ∧ Emitted s t [false, true] ∧
        t = { s with hc := t.hc, bits := t.bits, pos := s.pos + 1, result := none }) ∧
    (s.pos = 0 → s.par.seedEmit = true → s.configured = true → s.hc < 2 * s.profile.cap →
      ∃ t, exec (.lt L) s = .next t ∧ Emitted s t [L] ∧
        t = { s with hc := t.hc, bits := t.bits, pos := 1, result := none }) ∧
    (s.pos = 0 → s.par.seedEmit = false → exec (.lt L) s = .next { s with pos := 1, result := none }) ∧
    (s.pos ≠ 0 → s.readCode (s.pos - 1) ≠ composeCode .dw true → s.ac < 4 →
      exec (.lt L) s = .next { s with ac := s.ac + 1, pos := s.pos + 1, result := none }) ∧
    (s.pos ≠ 0 → s.readCode (s.pos - 1) ≠ composeCode .dw true → 4 ≤ s.ac →
      exec (.lt L) s = .next { s with ac := s.ac + 1, result := some .anomalyOverrun })

/-! ### ASSEMBLE -/

/-- `n` slots from `pos` on, each run by exec as the operation its code decodes to, ending at an abort. -/
def slotsByExec : Nat → State → Host.Outcome State Fault Refusal
  | 0, s => .next s
  | n + 1, s =>
    match decode s.par.widths (.pc (s.readCode s.pos)) with
    | .error _ => .refused .reservedPulseCode
    | .ok i => andThen (exec i s) fun t => if t.result = none then slotsByExec n t else .next t

/-- ASSEMBLE starts at slot 0 with `hc` and `ac` at 0, reads slots 0 to CAP-1 in order and runs each as the PulseCode
operation it decodes to, up to an abort; then it sets `blen` to `hc div 2`, or leaves `bits` and `blen` open after an abort
(41_frame_assembler.md R140, R149, R150; free values, log entry 10). -/
def Obligations.AssembleRunsEachSlotsPulseCode : Prop :=
  ∀ s : State, s.configured = true →
    exec .assemble s =
      andThen (slotsByExec s.profile.cap { s with hc := 0, ac := 0, pos := 0, result := none }) fun t =>
        .next (if t.result = none then { t with blen := t.hc / 2 } else t.loseBits s.profile.cap)

/-- ASSEMBLE on the machine is the list function of 41_frame_assembler.md R140 to R151: the same half-bits in the same
order with the second of each pair kept, the same anomaly count, the same AnomalyOverrun, the same refusal; what
`bits` and `blen` hold after an AnomalyOverrun is left open (free values, log entry 10). -/
def Obligations.AssembleMatchesTheListFunction : Prop :=
  ∀ s : State, s.configured = true →
    match streamView s.par.seedEmit 0 0#4 0 s.codes with
    | .done hs n =>
      ∃ t, exec .assemble s = .next t ∧ t.result = none ∧ t.hc = hs.length ∧ t.ac = n ∧ t.blen = hs.length / 2 ∧
        (∀ k, k < t.blen → t.readBit k = (keptHalves hs).getD k false) ∧
        t = { s with hc := t.hc, ac := t.ac, bits := t.bits, blen := t.blen, pos := t.pos, result := none }
    | .overrun =>
      ∃ t, exec .assemble s = .next t ∧ t.result = some .anomalyOverrun ∧ t.ac = 5 ∧ t.blen ≤ s.profile.cap ∧
        t = { s with hc := t.hc, ac := t.ac, bits := t.bits, blen := t.blen, pos := t.pos, result := t.result
                     free := t.free }
    | .reserved => exec .assemble s = .refused .reservedPulseCode

/-- When no slot holds a reserved class, ASSEMBLE completes: four counted anomalies never abort, the fifth always does
(41_frame_assembler.md R149, 90_conflicts.md C1), and everything stays inside its bounds (10_state.md R30, R31). -/
def Obligations.FourAnomaliesPassTheFifthAborts : Prop :=
  ∀ s : State, s.configured = true → (∀ i, i < s.profile.cap → decodeClass (codeClass (s.readCode i)) ≠ none) →
    ∃ t, exec .assemble s = .next t ∧
      (t.result = some .anomalyOverrun ↔ 5 ≤ countedAnomalies s.par.seedEmit 0 0#4 s.codes) ∧
      (t.result = none ↔ countedAnomalies s.par.seedEmit 0 0#4 s.codes ≤ 4) ∧
      t.ac = min 5 (countedAnomalies s.par.seedEmit 0 0#4 s.codes) ∧
      t.hc ≤ 2 * s.profile.cap ∧ t.blen ≤ s.profile.cap

/-- The conversion inverts the line code: when the slots hold the single and double codes of the edges of a line whose levels
`h` follow `last` with no run longer than two half-bits, ASSEMBLE counts no anomaly and emits the levels `h` again; of a
last run of two the second half-bit is not emitted, since no edge has ended it (30_encoding.md R93, R108,
41_frame_assembler.md R140, R141, R142, R148, R150). -/
def Obligations.LineCodeIsRecovered : Prop :=
  ∀ (s : State) (last : Bool) (h : List Bool), s.configured = true → s.codes = codesFrom last 1 h →
    runsAtMostTwo last 1 h = true →
    ∃ t, exec .assemble s = .next t ∧ t.result = none ∧ t.ac = 0 ∧
      t.hc = (if endsRepeated last h then h.length - 1 else h.length) ∧ t.blen = t.hc / 2 ∧
      (∀ k, k < t.blen → t.readBit k = h.getD (2 * k + 1) false) ∧
      t = { s with hc := t.hc, ac := 0, bits := t.bits, blen := t.blen, pos := t.pos, result := none }

/-! ### SYNC -/

/-- A SYNC run in the BitStream: the first run counts, the frame starts at the first 0 after it, the stream is not
inverted, and too few remaining bits give FrameTooShort (42_frame_synchronizer.md R160, R161, R162, R165). -/
def Obligations.SyncTakesTheFirstRun : Prop :=
  ∀ (s : State) (q : Nat), s.configured = true → s.blen ≤ s.profile.cap → FirstRunAt s.readBit s.blen q →
    ∃ t, exec .sync s = .next t ∧ t.syncPos = q ∧ t.inverted = false ∧
      FirstZeroFrom s.readBit s.blen (q + 16) t.start ∧
      (t.result = some .frameTooShort ↔ s.blen - t.start < s.profile.minBits) ∧
      (t.result = none ↔ s.profile.minBits ≤ s.blen - t.start) ∧
      t = { s with syncPos := t.syncPos, start := t.start, inverted := t.inverted, result := t.result }

/-- No run in the BitStream but one in its complement: every bit is inverted exactly once and the same search gives the
frame start (42_frame_synchronizer.md R160, R163, R166). -/
def Obligations.SyncRetriesOnTheComplement : Prop :=
  ∀ (s : State) (q : Nat), s.configured = true → s.blen ≤ s.profile.cap →
    (∀ r, ¬ RunAt s.readBit s.blen r) → FirstRunAt (fun k => !s.readBit k) s.blen q →
    ∃ t, exec .sync s = .next t ∧ t.syncPos = q ∧ t.inverted = true ∧
      (∀ k, t.readBit k = if k < s.blen then !s.readBit k else s.readBit k) ∧
      FirstZeroFrom (fun k => !s.readBit k) s.blen (q + 16) t.start ∧
      (t.result = some .frameTooShort ↔ s.blen - t.start < s.profile.minBits) ∧
      (t.result = none ↔ s.profile.minBits ≤ s.blen - t.start) ∧
      t = { s with bits := t.bits, syncPos := t.syncPos, start := t.start, inverted := t.inverted
                   result := t.result }

/-- No run on either attempt: NoFrame, with the BitStream left complemented; `syncPos`, `start` and `inverted` are left
open (42_frame_synchronizer.md R163, R164; free values, log entry 11). A BitStream shorter than 16 bits has no run. -/
def Obligations.SyncWithoutARunIsNoFrame : Prop :=
  ∀ s : State, s.configured = true → s.blen ≤ s.profile.cap →
    ((∀ r, ¬ RunAt s.readBit s.blen r) ∧ (∀ r, ¬ RunAt (fun k => !s.readBit k) s.blen r)) ∨ s.blen < 16 →
    ∃ t, exec .sync s = .next t ∧ t.result = some .noFrame ∧
      (∀ k, t.readBit k = if k < s.blen then !s.readBit k else s.readBit k) ∧
      t = { s with bits := t.bits, syncPos := t.syncPos, start := t.start, inverted := t.inverted
                   result := t.result, free := t.free }

/-- Double inversion is identity: the stream inverted twice reads as before and the search gives the same result
(42_frame_synchronizer.md R163, R167). When the result is NoFrame, 42_frame_synchronizer.md R164 leaves `syncPos`, `start`
and `inverted` unspecified; they are equal then only because both searches draw the same free values at the same counter
(the model's own, log entries 11 and 27). -/
def Obligations.DoubleInversionIsIdentity : Prop :=
  ∀ (s : State) (p : DeviceProfile),
    (∀ k, s.invert.invert.readBit k = s.readBit k) ∧
    (s.invert.invert.synced p).result = (s.synced p).result ∧
    (s.invert.invert.synced p).syncPos = (s.synced p).syncPos ∧
    (s.invert.invert.synced p).start = (s.synced p).start ∧
    (s.invert.invert.synced p).inverted = (s.synced p).inverted

/-! ### TRIM and the round trip -/

/-- TRIM puts data bit `m` of byte frame `k`, the bit at offset `10*k + 1 + m` from the frame start, into bit `m` of byte
`k`, for exactly N bytes, and writes nothing else (43_frame_trimmer.md R175, R177, R178, 20_memory.md R62; that the first data bit
is bit 0 is the spec's general-knowledge choice, PRESUMED, log entry 21). -/
def Obligations.TrimPacksTheDataBits : Prop :=
  ∀ s : State, s.configured = true → s.start + 10 * s.profile.len < s.blen + 2 →
    ∃ t, exec .trim s = .next t ∧
      (∀ k m, k < s.profile.len → m < 8 →
        (t.readFrame k).getLsbD m = s.readBit (s.start + 10 * k + 1 + m)) ∧
      (∀ k, s.profile.len ≤ k → t.readFrame k = s.readFrame k) ∧
      t = { s with frame := t.frame, result := none }

/-- A BitStream that holds a whole telegram, with no SYNC run wholly before it, synchronizes on attempt 0 and trims to the
telegram's bytes (42_frame_synchronizer.md R167, 30_encoding.md R96, R108). -/
def Obligations.TelegramsRoundTrip : Prop :=
  ∀ (s : State) (pre post : List Bool) (bytes : List Byte),
    s.configured = true → s.blen ≤ s.profile.cap →
    bytes ≠ [] → bytes.length = s.profile.len → s.profile.minBits ≤ 10 * s.profile.len + post.length →
    s.holdsBits (pre ++ telegram bytes ++ post) →
    (∀ q, ¬ RunAt (fun k => pre.getD k false) pre.length q) →
    ∃ t u, exec .sync s = .next t ∧ t.result = none ∧ t.inverted = false ∧ t.start = pre.length + 16 ∧
      exec .trim t = .next u ∧ ∀ k, k < s.profile.len → u.readFrame k = bytes.getD k 0#8

/-- A BitStream that is the complement of a telegram holds no SYNC run, so SYNC makes no false match on attempt 0: it inverts
every bit, finds the telegram's preamble on attempt 1 and ends as the number of bits after it says
(42_frame_synchronizer.md R160, R163, R165, R166). That no run lies in the complement rests on the stop bits of `telegram`
being 1: 30_encoding.md R95 leaves a stop bit's value unstated, and R108's 1 is the spec's general-knowledge choice
(PRESUMED, log entry 21). -/
def Obligations.ComplementOfATelegramHasNoRun : Prop :=
  ∀ (s : State) (bytes : List Byte), s.configured = true → s.blen ≤ s.profile.cap →
    s.holdsBits ((telegram bytes).map fun b => !b) →
    (∀ q, ¬ RunAt s.readBit s.blen q) ∧
    ∃ t, exec .sync s = .next t ∧ t.inverted = true ∧ t.syncPos = 0 ∧ t.start = 16 ∧
      t.holdsBits (telegram bytes) ∧
      (t.result = some .frameTooShort ↔ 10 * bytes.length < s.profile.minBits) ∧
      (t.result = none ↔ s.profile.minBits ≤ 10 * bytes.length)

/-! ### CHKDEV, CHKCRC, COMMIT -/

/-- CHKDEV passes exactly when byte 0 is `id0` and byte 1 is `id1` where the profile gives one; it writes nothing but its
result (44_device_validator.md R185, R188). -/
def Obligations.ChkdevComparesTheIdentityBytes : Prop :=
  ∀ s : State, s.configured = true → 1 ≤ s.profile.len → (s.profile.id1 ≠ none → 2 ≤ s.profile.len) →
    ∃ r, exec .chkdev s = .next { s with result := r } ∧
      (r = none ↔ s.readFrame 0 = s.profile.id0 ∧ ∀ b, s.profile.id1 = some b → s.readFrame 1 = b) ∧
      (r = none ∨ r = some .deviceMismatch)

/-- CHKCRC accepts exactly when no checksum is defined or the sum of bytes `[0, idx)` modulo 256 is byte `idx`; it writes
nothing but its result (44_device_validator.md R186, R188). -/
def Obligations.ChkcrcAcceptsIffTheSumMatches : Prop :=
  ∀ s : State, s.configured = true → s.profile.crcIdx < s.profile.len →
    ∃ r, exec .chkcrc s = .next { s with result := r } ∧
      (r = none ↔ s.profile.crcIdx = 0 ∨
        ((List.range s.profile.crcIdx).map fun k => (s.readFrame k).toNat).sum % 256 =
          (s.readFrame s.profile.crcIdx).toNat) ∧
      (r = none ∨ r = some .checksumMismatch)

/-- A single changed byte among bytes `0 .. idx` makes an accepted frame fail (44_device_validator.md R189). -/
def Obligations.OneChangedByteFailsTheChecksum : Prop :=
  ∀ (p : DeviceProfile) (f g : Nat → Byte) (j : Nat), p.crcIdx ≠ 0 → j ≤ p.crcIdx → f j ≠ g j →
    (∀ k, k ≠ j → f k = g k) → crcOk p f = true → crcOk p g = false

/-- COMMIT enters Decoded and reports nothing (46_sequencer.md R227). -/
def Obligations.CommitEntersDecoded : Prop :=
  ∀ s : State, exec .commit s = .next { s with valid := true, status := .none, res := .decoded, result := none }

/-! ### GET_FIELD -/

/-- Without a validated frame every query answers DecodeFailure(status) (45_field_decoder.md R195). -/
def Obligations.QueryWithoutAFrameAnswersTheStatus : Prop :=
  ∀ (s : State) (group : BitVec 3) (index : Nat), s.valid = false →
    exec (.getField group index) s = .next { s with outs := s.outs ++ [.field (.decodeFailure s.status)] }

/-- A query that completes gives one answer and writes no state of the block (45_field_decoder.md R195,
20_memory.md R67, 60_exceptions.md R260). -/
def Obligations.QueriesChangeNothing : Prop :=
  ∀ (s t : State) (group : BitVec 3) (index : Nat), exec (.getField group index) s = .next t →
    ∃ r, t = { s with outs := s.outs ++ [.field r] }

/-- Group and index outside the profile's capacity answer FieldOutOfRange (45_field_decoder.md R195, R196). -/
def Obligations.QueriesOutsideTheTableFail : Prop :=
  ∀ (s : State) (group : BitVec 3) (index : Nat), s.valid = true → s.configured = true →
    (group = 0#3 ∧ s.profile.fields.sensorCount ≤ index) ∨
    (group = 1#3 ∧ 8 * s.profile.fields.outBytes.val ≤ index) ∨
    (group = 2#3 ∧ s.profile.fields.speedCount ≤ index) ∨
    (group = 3#3 ∧ s.profile.fields.analogCount ≤ index) ∨ group = 6#3 ∨ group = 7#3 →
    exec (.getField group index) s = .next { s with outs := s.outs ++ [.field (.decodeFailure .fieldOutOfRange)] }

/-- A sensor query answers by the raw value's sign, tag and magnitude (45_field_decoder.md R197 to R205; that the low byte
comes first and that a room field's mode is bits 10:9 are the spec's general-knowledge choices, PRESUMED, log entry 21). -/
def Obligations.SensorQueryDecodesTheRawValue : Prop :=
  ∀ (s : State) (index o raw : Nat) (v : Int), s.valid = true → s.configured = true →
    s.profile.wellFormed s.par.widths.time = true → index < s.profile.fields.sensorCount →
    o = s.profile.fields.sensorBase + 2 * index →
    raw = (s.readFrame (o + 1)).toNat * 256 + (s.readFrame o).toNat →
    v = (if raw < 32768 then ((raw % 4096 : Nat) : Int) else ((raw % 4096 : Nat) : Int) - 4096) →
    exec (.getField 0#3 index) s = .next { s with outs := s.outs ++ [.field (
      if raw = 0 then .decodeFailure .fieldNotPopulated
      else
        match s.profile.fields.tagMap.get (BitVec.ofNat 3 (raw / 4096)) with
        | none => .decodeFailure .fieldNotPopulated
        | some .digital => .sensorReading (.digital (decide (v ≠ 0)))
        | some .temperature => .sensorReading (.temperature v)
        | some .rays => .sensorReading (.rays v)
        | some .volumeFlow => .sensorReading (.volumeFlow (4 * v))
        | some .room => .sensorReading (.room (raw % 512)
            (if raw / 512 % 4 = 0 then .auto else if raw / 512 % 4 = 1 then .normal
             else if raw / 512 % 4 = 2 then .lower else .standby)))] }

/-- A room field's magnitude and mode decode independently of the sign bit (45_field_decoder.md R205). -/
def Obligations.RoomFieldsIgnoreTheSignBit : Prop :=
  ∀ (m : TagMap) (raw : BitVec 16), m.get (raw.extractLsb' 12 3) = some .room →
    raw ≠ 0#16 → raw ^^^ 0x8000#16 ≠ 0#16 → sensorResult m (raw ^^^ 0x8000#16) = sensorResult m raw

/-- An output query tests one bit of the configured byte or of the two configured bytes, the low one first
(45_field_decoder.md R206; the byte order is the spec's general-knowledge choice, log entry 21). -/
def Obligations.OutputQueryTestsOneBit : Prop :=
  ∀ (s : State) (index o : Nat), s.valid = true → s.configured = true → s.profile.wellFormed s.par.widths.time = true →
    o = s.profile.fields.outBase →
    (s.profile.fields.outBytes = 1 → index < 8 →
      exec (.getField 1#3 index) s =
        .next { s with outs := s.outs ++ [.field (.outputBit ((s.readFrame o).getLsbD index))] }) ∧
    (s.profile.fields.outBytes = 2 → index < 16 →
      exec (.getField 1#3 index) s = .next { s with outs := s.outs ++ [.field (.outputBit
        (if index < 8 then (s.readFrame o).getLsbD index else (s.readFrame (o + 1)).getLsbD (index - 8)))] })

/-- Speed and analog queries: a set top bit is not populated, else the low 5 or 7 bits
(45_field_decoder.md R207, R208). -/
def Obligations.SpeedAndAnalogQueriesReadTheLowBits : Prop :=
  ∀ (s : State) (index : Nat) (b : Byte), s.valid = true → s.configured = true → s.profile.wellFormed s.par.widths.time = true →
    (index < s.profile.fields.speedCount → b = s.readFrame (s.profile.fields.speedBase + index) →
      exec (.getField 2#3 index) s = .next { s with outs := s.outs ++ [.field (
        if 128 ≤ b.toNat then .decodeFailure .fieldNotPopulated else .speedStep (b.toNat % 32))] }) ∧
    (index < s.profile.fields.analogCount → b = s.readFrame (s.profile.fields.analogBase + index) →
      exec (.getField 3#3 index) s = .next { s with outs := s.outs ++ [.field (
        if 128 ≤ b.toNat then .decodeFailure .fieldNotPopulated else .analogValue (b.toNat % 128))] })

/-- Heat power and heat energy of a validated frame are refused (45_field_decoder.md R209, R210). -/
def Obligations.HeatQueriesAreRefused : Prop :=
  ∀ (s : State) (index : Nat), s.valid = true → s.configured = true →
    exec (.getField 4#3 index) s = .refused .heatPowerLayout ∧
    exec (.getField 5#3 index) s = .refused .heatEnergyLayout

/-! ### The sequencer -/

/-- CONFIG is refused while armed, with input mode 3 or with a malformed profile; otherwise it selects the profile and
returns the cycle state to Idle, and `lastEdgeTime` is not touched (46_sequencer.md R220). -/
def Obligations.ConfigSelectsAProfileOrIsRefused : Prop :=
  ∀ (s : State) (model : BitVec 2) (pin : Nat) (pinmode : BitVec 2),
    (s.armed = true → exec (.config model pin pinmode) s = .refused .configWhileArmed) ∧
    (s.armed = false → pinmode = 3#2 → exec (.config model pin pinmode) s = .refused .reservedPinmode) ∧
    (s.armed = false → pinmode ≠ 3#2 → (s.par.profiles.get model).wellFormed s.par.widths.time = false →
      exec (.config model pin pinmode) s = .refused .malformedProfile) ∧
    (s.armed = false → pinmode ≠ 3#2 → (s.par.profiles.get model).wellFormed s.par.widths.time = true →
      exec (.config model pin pinmode) s = .next { s with
        model := model, pin := pin, pinmode := pinmode, configured := true, wr := 0, outstanding := false
        suppress := false, valid := false, status := .none, res := .idle })

/-- START is refused while unconfigured, has no effect while suppressed or armed, and otherwise arms, discarding an
unprocessed capture and the old frame (46_sequencer.md R221). -/
def Obligations.StartArmsOrHasNoEffect : Prop :=
  ∀ (s : State) (now : Time),
    (s.configured = false → exec (.start now) s = .refused .notConfigured) ∧
    (s.configured = true → s.suppress = true ∨ s.armed = true → exec (.start now) s = .next s) ∧
    (s.configured = true → s.suppress = false → s.armed = false →
      exec (.start now) s = .next { s with
        wr := 0, outstanding := true, armTime := now, valid := false, status := .none, armed := true })

/-- READ_REQ is refused while unconfigured, lifts the suppression, has no other effect while armed, and otherwise arms
(46_sequencer.md R222). -/
def Obligations.ReadReqLiftsTheSuppression : Prop :=
  ∀ (s : State) (now : Time),
    (s.configured = false → exec (.readReq now) s = .refused .notConfigured) ∧
    (s.configured = true → s.armed = true → exec (.readReq now) s = .next { s with suppress := false }) ∧
    (s.configured = true → s.armed = false →
      exec (.readReq now) s = .next { s with
        suppress := false, wr := 0, outstanding := true, armTime := now, valid := false, status := .none
        armed := true })

/-- POLL has no effect with nothing outstanding, while Capturing, and while Armed before the guard runs out; at the guard
or after it TIMEOUT aborts the cycle, reports once and suppresses (46_sequencer.md R223, R224). -/
def Obligations.PollWaitsOrTimesOut : Prop :=
  ∀ (s : State) (now : Time),
    (s.outstanding = false → exec (.poll now) s = .next s) ∧
    (s.outstanding = true → s.armed = true → s.wr ≠ 0 → exec (.poll now) s = .next s) ∧
    (s.outstanding = true → s.armed = true → s.wr = 0 → interval s.par.widths.time now s.armTime < s.par.tNodata →
      exec (.poll now) s = .next s) ∧
    (s.outstanding = true → s.armed = true → s.wr = 0 → s.par.tNodata ≤ interval s.par.widths.time now s.armTime →
      exec (.poll now) s = .next { s with
        armed := false, outstanding := false, suppress := true, valid := false, status := .captureTimeout
        res := .aborted, outs := s.outs ++ [.report .captureTimeout] })

/-- Stages run in order by exec; the first failure ends the cycle: `valid` 0, `status` the code, `res` Aborted, one
report (60_exceptions.md R256). -/
def stagesByExec : List Instr → State → Host.Outcome State Fault Refusal
  | [], s => .next s
  | i :: is, s =>
    andThen (exec i s) fun t =>
      match t.result with
      | none => stagesByExec is t
      | some c => .next { t with
          valid := false, status := c.status, res := .aborted, outs := t.outs ++ [.report c.status] }

/-- POLL in CaptureComplete consumes the capture and runs ASSEMBLE, SYNC, TRIM, CHKDEV, CHKCRC, COMMIT in this order to the
first failure (46_sequencer.md R225, 30_encoding.md R99, 60_exceptions.md R254, R256). -/
def Obligations.PollRunsTheStagesInOrder : Prop :=
  ∀ (s : State) (now : Time), s.outstanding = true → s.armed = false →
    exec (.poll now) s =
      stagesByExec [.assemble, .sync, .trim, .chkdev, .chkcrc, .commit] { s with outstanding := false }

/-- From a reachable CaptureComplete, POLL completes: Decoded with a frame that passes both checks and no report, or Aborted
with exactly one report, of the code in `status` (46_sequencer.md R225, R227, 60_exceptions.md R254, R256, R264). -/
def Obligations.PollEndsDecodedOrAborted : Prop :=
  ∀ (s : State) (now : Time), s.Inv → s.captureComplete = true →
    ∃ t, exec (.poll now) s = .next t ∧
      ((t.phase = .decoded ∧ t.valid = true ∧ t.status = .none ∧ t.outs = s.outs ∧
          devOk s.profile t.readFrame = true ∧ crcOk s.profile t.readFrame = true) ∨
        (t.phase = .aborted ∧ t.valid = false ∧
          ∃ c : CycleFailure, t.status = c.status ∧ t.outs = s.outs ++ [.report c.status])) ∧
      t = { s with outstanding := false, hc := t.hc, ac := t.ac, bits := t.bits, blen := t.blen
                   inverted := t.inverted, syncPos := t.syncPos, start := t.start, frame := t.frame
                   valid := t.valid, status := t.status, res := t.res, pos := t.pos, result := t.result
                   free := t.free, outs := t.outs }

/-- A complete capture whose half-bits carry a whole telegram with the right identity and checksum is decoded to the
telegram's bytes, on either polarity (42_frame_synchronizer.md R167, 46_sequencer.md R225). -/
def Obligations.CapturedTelegramsDecode : Prop :=
  ∀ (s : State) (now : Time) (hs pre post : List Bool) (bytes : List Byte) (n : Nat) (pol : Bool),
    s.Inv → s.captureComplete = true →
    streamView s.par.seedEmit 0 0#4 0 s.codes = .done hs n →
    keptHalves hs = (if pol then (pre ++ telegram bytes ++ post).map (fun b => !b) else pre ++ telegram bytes ++ post) →
    (∀ q, ¬ RunAt (fun k => pre.getD k false) pre.length q) →
    (pol = true → ∀ q, ¬ RunAt (fun k => (keptHalves hs).getD k false) (keptHalves hs).length q) →
    bytes.length = s.profile.len → s.profile.minBits ≤ 10 * s.profile.len + post.length →
    devOk s.profile (fun k => bytes.getD k 0#8) = true → crcOk s.profile (fun k => bytes.getD k 0#8) = true →
    ∃ t, exec (.poll now) s = .next t ∧ t.phase = .decoded ∧ t.valid = true ∧ t.inverted = pol ∧
      ∀ k, k < s.profile.len → t.readFrame k = bytes.getD k 0#8

/-- A timeout is reported once: while `suppress` is 1, no sequence of EDGE, START, POLL and GET_FIELD events arms the block,
lifts the suppression or reports anything (46_sequencer.md R224, 10_state.md R27). -/
def Obligations.TimeoutsAreReportedOnce : Prop :=
  ∀ (is : List Instr) (s t : State), s.Inv → s.suppress = true →
    (∀ i, i ∈ is → isEvent i ∧ (∀ m p q, i ≠ .config m p q) ∧ ∀ now, i ≠ .readReq now) →
    runEvents is s = .next t →
    t.suppress = true ∧ t.phase = .aborted ∧ reportsOf t.outs = reportsOf s.outs

/-- A capture that has stored an edge moves only by EDGE: START, READ_REQ and POLL have no effect at any time and CONFIG is
refused (70_reset_and_hazards.md R285, R286, R287). -/
def Obligations.StalledCapturesMoveOnlyByEdge : Prop :=
  ∀ (s : State) (now : Time) (model : BitVec 2) (pin : Nat) (pinmode : BitVec 2), s.Inv → s.phase = .capturing →
    exec (.start now) s = .next s ∧ exec (.readReq now) s = .next s ∧ exec (.poll now) s = .next s ∧
    exec (.config model pin pinmode) s = .refused .configWhileArmed

/-- Every transition of the phase between operations is one of the table (46_sequencer.md R228). -/
def Obligations.PhasesMoveByTheTable : Prop :=
  ∀ (s t : State) (i : Instr), s.Inv → exec i s = .next t →
    match i with
    | .config _ _ _ => s.armed = false ∧ t.phase = .idle
    | .start _ =>
      t.phase = if s.phase = .armed ∨ s.phase = .capturing ∨ s.suppress = true then s.phase else .armed
    | .readReq _ => t.phase = if s.phase = .armed ∨ s.phase = .capturing then s.phase else .armed
    | .edge _ _ =>
      t.phase =
        if s.phase = .armed ∨ s.phase = .capturing then
          (if s.wr + 1 = s.profile.cap then .captureComplete else .capturing)
        else s.phase
    | .poll now =>
      if s.phase = .armed then
        if s.par.tNodata ≤ interval s.par.widths.time now s.armTime then t.phase = .aborted ∧ t.suppress = true
        else t.phase = .armed
      else if s.phase = .captureComplete then t.phase = .decoded ∨ t.phase = .aborted
      else t.phase = s.phase
    | .getField _ _ => t.phase = s.phase
    | _ => True

/-! ### Whole-machine rules -/

/-- Every step keeps the invariant of 10_state.md R37. -/
def Obligations.StepsKeepTheInvariant : Prop :=
  ∀ s t : State, s.Inv → step s = .next t → t.Inv

/-- No access outside a storage space exists: no step of a state that meets the invariant faults (20_memory.md R68). -/
def Obligations.NoStepFaults : Prop :=
  ∀ (s : State) (f : Fault), s.Inv → step s ≠ .fault f

/-- From a state that meets the invariant, EDGE and POLL always complete, and an event is refused only for the reasons the
rules name (46_sequencer.md R220, R221, R222, 45_field_decoder.md R209, R210). -/
def Obligations.EventsAreRefusedOnlyAsTheRulesSay : Prop :=
  ∀ (s : State) (i : Instr), s.Inv → isEvent i →
    (∃ t, exec i s = .next t) ∨
    (s.configured = false ∧ ∃ now, (i = .start now ∨ i = .readReq now) ∧ exec i s = .refused .notConfigured) ∨
    (∃ m p q, i = .config m p q ∧
      (s.armed = true ∨ q = 3#2 ∨ (s.par.profiles.get m).wellFormed s.par.widths.time = false)) ∨
    (s.valid = true ∧ ∃ k, i = .getField 4#3 k ∨ i = .getField 5#3 k)

/-- The parameters never change, and the configuration registers change only by CONFIG
(10_state.md R28, R29, 20_memory.md R75). -/
def Obligations.OnlyConfigSelectsAProfile : Prop :=
  ∀ (s t : State) (i : Instr), exec i s = .next t →
    t.par = s.par ∧
    ((∀ m p q, i ≠ .config m p q) →
      t.configured = s.configured ∧ t.model = s.model ∧ t.pin = s.pin ∧ t.pinmode = s.pinmode)

/-- Every operation keeps the storage spaces in canonical form (the model's own form, log entry 9). -/
def Obligations.SpacesStayCanonical : Prop :=
  ∀ (s t : State) (i : Instr), s.spacesWf = true → exec i s = .next t → t.spacesWf = true

/-- What each context may write: EDGE only `lastEdgeTime`, `buf`, `wr` and `armed`, which it can only clear; every
task-side operation leaves `lastEdgeTime` and `buf` alone, can only zero `wr`, sets `armed` only in START and READ_REQ and
clears it only in POLL (60_exceptions.md R261). -/
def Obligations.ContextsWriteOnlyTheirState : Prop :=
  ∀ (s t : State) (i : Instr), exec i s = .next t →
    (∀ level now, i = .edge level now →
      t = { s with lastEdgeTime := now, buf := t.buf, wr := t.wr, armed := t.armed } ∧
      (t.wr = s.wr ∨ t.wr = s.wr + 1) ∧ (t.armed = true → s.armed = true)) ∧
    ((∀ level now, i ≠ .edge level now) →
      t.lastEdgeTime = s.lastEdgeTime ∧ t.buf = s.buf ∧ (t.wr = s.wr ∨ t.wr = 0) ∧
      (s.armed = false → t.armed = true → ∃ now, i = .start now ∨ i = .readReq now) ∧
      (s.armed = true → t.armed = false → ∃ now, i = .poll now))

/-- `pin` and `pinmode` are stored and read by no rule: two states that differ only in them give outcomes that differ only
in them (10_state.md R28). -/
def Obligations.PinAndPinmodeAreNeverRead : Prop :=
  ∀ (s : State) (i : Instr) (pin : Nat) (pinmode : BitVec 2),
    (∀ t, exec i s = .next t → ∃ a b, exec i (s.withPins pin pinmode) = .next (t.withPins a b)) ∧
    (∀ f, exec i s = .fault f → exec i (s.withPins pin pinmode) = .fault f) ∧
    (∀ r, exec i s = .refused r → exec i (s.withPins pin pinmode) = .refused r)

/-- `armTime` is written whenever a capture is outstanding: a capture begins only in START or READ_REQ, which write it, and
it stays while the capture is outstanding (10_state.md R26, R37). -/
def Obligations.CapturesBeginOnlyWithTheirArmTime : Prop :=
  ∀ (s t : State) (i : Instr), exec i s = .next t → t.outstanding = true →
    (s.outstanding = true ∧ t.armTime = s.armTime) ∨
    (t.phase = .armed ∧ ∃ now, (i = .start now ∨ i = .readReq now) ∧ t.armTime = now)

/-- Among the events only a POLL in CaptureComplete makes a frame valid, and it passes both checks then
(44_device_validator.md R187, 10_state.md R33). -/
def Obligations.FramesBecomeValidOnlyThroughBothChecks : Prop :=
  ∀ (s t : State) (i : Instr), isEvent i → exec i s = .next t → s.valid = false → t.valid = true →
    s.captureComplete = true ∧ (∃ now, i = .poll now) ∧
    devOk t.profile t.readFrame = true ∧ crcOk t.profile t.readFrame = true

/-! ### Where an operation stops -/

/-- An access outside a storage space faults by name: EDGE at slot CAP or above, the PulseCodes at half-bit 2*CAP or above,
SYNC with a stream longer than CAP, TRIM past the stream, and CHKDEV, CHKCRC and the four query groups at byte N or above
(20_memory.md R68; the model's choice, log entry 17). -/
def Obligations.AccessesOutsideASpaceFault : Prop :=
  ∀ (s : State) (level : Bool) (now : Time) (index : Nat), s.configured = true →
    (s.armed = true → s.profile.cap ≤ s.wr → exec (.edge level now) s = .fault .pulseSlotOutOfRange) ∧
    (2 * s.profile.cap ≤ s.hc → exec (.sw level) s = .fault .bitIndexOutOfRange) ∧
    (2 * s.profile.cap ≤ s.hc + 1 → exec (.dw level) s = .fault .bitIndexOutOfRange) ∧
    (2 * s.profile.cap ≤ s.hc + 1 → s.afterDw1 = true → exec (.lt level) s = .fault .bitIndexOutOfRange) ∧
    (2 * s.profile.cap ≤ s.hc → s.pos = 0 → s.par.seedEmit = true →
      exec (.lt level) s = .fault .bitIndexOutOfRange) ∧
    (s.profile.cap < s.blen → exec .sync s = .fault .bitIndexOutOfRange) ∧
    (s.blen + 2 ≤ s.start + 10 * s.profile.len → exec .trim s = .fault .bitIndexOutOfRange) ∧
    (s.profile.len = 0 ∨ s.profile.id1 ≠ none ∧ s.profile.len < 2 →
      exec .chkdev s = .fault .frameByteOutOfRange) ∧
    (s.profile.crcIdx ≠ 0 → s.profile.len ≤ s.profile.crcIdx → exec .chkcrc s = .fault .frameByteOutOfRange) ∧
    (s.valid = true → index < s.profile.fields.sensorCount →
      s.profile.len ≤ s.profile.fields.sensorBase + 2 * index + 1 →
      exec (.getField 0#3 index) s = .fault .frameByteOutOfRange) ∧
    (s.valid = true → index < 8 * s.profile.fields.outBytes.val →
      s.profile.len < s.profile.fields.outBase + s.profile.fields.outBytes.val →
      exec (.getField 1#3 index) s = .fault .frameByteOutOfRange) ∧
    (s.valid = true → index < s.profile.fields.speedCount →
      s.profile.len ≤ s.profile.fields.speedBase + index →
      exec (.getField 2#3 index) s = .fault .frameByteOutOfRange) ∧
    (s.valid = true → index < s.profile.fields.analogCount →
      s.profile.len ≤ s.profile.fields.analogBase + index →
      exec (.getField 3#3 index) s = .fault .frameByteOutOfRange)

/-- The active profile is defined only while `configured` is 1: an operation that reads it is refused before
(10_state.md R29; the model's choice for the stages, the codes, the query of a valid frame and the POLL that would run the
stages, log entry 18). -/
def Obligations.ProfileReadersNeedAConfiguration : Prop :=
  ∀ (s : State) (level : Bool) (now : Time) (group : BitVec 3) (index : Nat), s.configured = false →
    (s.armed = true → exec (.edge level now) s = .refused .notConfigured) ∧
    exec (.sw level) s = .refused .notConfigured ∧ exec (.dw level) s = .refused .notConfigured ∧
    (s.afterDw1 = true → exec (.lt level) s = .refused .notConfigured) ∧
    (s.pos = 0 → s.par.seedEmit = true → exec (.lt level) s = .refused .notConfigured) ∧
    exec .assemble s = .refused .notConfigured ∧ exec .sync s = .refused .notConfigured ∧
    exec .trim s = .refused .notConfigured ∧ exec .chkdev s = .refused .notConfigured ∧
    exec .chkcrc s = .refused .notConfigured ∧
    (s.valid = true → exec (.getField group index) s = .refused .notConfigured) ∧
    (s.outstanding = true → s.armed = false → exec (.poll now) s = .refused .notConfigured)

/-- What a well-formed profile is: the inequalities of 00_scope.md R8 for timestamps of `W` bits and the four field-table
constraints of 45_field_decoder.md R196. -/
def Obligations.WellFormedProfilesAreTheOnesOfTheRules : Prop :=
  ∀ (W : Nat) (p : DeviceProfile),
    p.wellFormed W = true ↔
      p.minSingle ≤ p.maxSingle ∧ p.maxSingle < p.minDouble ∧ p.minDouble ≤ p.maxDouble ∧
      2 * p.minDouble < 2 ^ W ∧ 1 ≤ p.len ∧ (p.id1 = none ∨ 2 ≤ p.len) ∧ p.crcIdx < p.len ∧ 1 ≤ p.cap ∧
      10 * p.len - 1 ≤ p.minBits ∧
      p.fields.sensorBase + 2 * p.fields.sensorCount ≤ p.len ∧
      p.fields.outBase + p.fields.outBytes.val ≤ p.len ∧
      p.fields.speedBase + p.fields.speedCount ≤ p.len ∧ p.fields.analogBase + p.fields.analogCount ≤ p.len
end

