-- ==== Sys2Proof/Laws/Memory.lean ====
section
/-!
SUPPORT. The storage spaces: a read after a write, and that every operation keeps the canonical form.
-/

namespace Sys2Proof.Machine

variable {α : Type}

@[simp] theorem Memory.find_nil (i : Nat) : Memory.find ([] : Memory α) i = none := rfl

@[simp] theorem Memory.find_write_same (m : Memory α) (i : Nat) (v : α) : (m.write i v).find i = some v := by
  induction m with
  | nil => simp [Memory.write, Memory.find]
  | cons e m ih =>
    obtain ⟨k, x⟩ := e
    simp only [Memory.write]
    split
    · simp [Memory.find]
    · split
      · simp [Memory.find]
      · rename_i _ h
        simp [Memory.find, Ne.symm h, ih]

theorem Memory.find_write_other (m : Memory α) {i j : Nat} (v : α) (h : i ≠ j) :
    (m.write i v).find j = m.find j := by
  induction m with
  | nil => simp [Memory.write, Memory.find, h]
  | cons e m ih =>
    obtain ⟨k, x⟩ := e
    simp only [Memory.write]
    split
    · simp [Memory.find, h]
    · split
      · rename_i _ hk
        subst hk
        simp [Memory.find, h]
      · simp [Memory.find, ih]

theorem Memory.find_write (m : Memory α) (i j : Nat) (v : α) :
    (m.write i v).find j = if i = j then some v else m.find j := by
  split
  · rename_i h
    subst h
    simp
  · rename_i h
    exact m.find_write_other v h

/-- Every index of `m` is above `k`. -/
def Memory.Above (k : Nat) (m : Memory α) : Prop := ∀ e ∈ m, k < e.1

theorem Memory.wf_cons (k : Nat) (x : α) (m : Memory α) :
    Memory.wf ((k, x) :: m) = true ↔ Memory.Above k m ∧ m.wf = true := by
  induction m generalizing k x with
  | nil => simp [Memory.wf, Memory.Above]
  | cons e m ih =>
    obtain ⟨k', x'⟩ := e
    simp only [Memory.wf, Bool.and_eq_true, decide_eq_true_eq, ih, Memory.Above, List.mem_cons, forall_eq_or_imp]
    constructor
    · rintro ⟨h, ha, hw⟩
      exact ⟨⟨h, fun e he => lt_trans h (ha e he)⟩, ha, hw⟩
    · rintro ⟨⟨h, _⟩, ha, hw⟩
      exact ⟨h, ha, hw⟩

theorem Memory.above_write {k i : Nat} {m : Memory α} (v : α) (h : m.Above k) (hi : k < i) :
    (m.write i v).Above k := by
  induction m with
  | nil => simpa [Memory.write, Memory.Above] using hi
  | cons e m ih =>
    obtain ⟨k', x⟩ := e
    have h1 : k < k' := h _ (List.mem_cons_self ..)
    have h2 : Memory.Above k m := fun e he => h e (List.mem_cons_of_mem _ he)
    simp only [Memory.write]
    split
    · intro e he
      rcases List.mem_cons.1 he with rfl | he
      · exact hi
      · exact h e he
    · split
      · intro e he
        rcases List.mem_cons.1 he with rfl | he
        · exact hi
        · exact h2 e he
      · intro e he
        rcases List.mem_cons.1 he with rfl | he
        · exact h1
        · exact ih h2 e he

/-- A write keeps the canonical form. -/
theorem Memory.wf_write {m : Memory α} (i : Nat) (v : α) (h : m.wf = true) : (m.write i v).wf = true := by
  induction m with
  | nil => rfl
  | cons e m ih =>
    obtain ⟨k, x⟩ := e
    obtain ⟨ha, hw⟩ := (Memory.wf_cons k x m).1 h
    simp only [Memory.write]
    split
    · rename_i hlt
      refine (Memory.wf_cons ..).2 ⟨?_, h⟩
      intro e he
      rcases List.mem_cons.1 he with rfl | he
      · exact hlt
      · exact lt_trans hlt (ha e he)
    · split
      · rename_i _ hik
        subst hik
        exact (Memory.wf_cons ..).2 ⟨ha, hw⟩
      · rename_i h1 h2
        exact (Memory.wf_cons ..).2 ⟨Memory.above_write v ha (by omega), ih hw⟩

/-- The entries `(0, f 0) .. (n-1, f (n-1))` are in canonical form. -/
theorem Memory.wf_map_range (f : Nat → α) (n : Nat) :
    Memory.wf ((List.range n).map fun k => (k, f k)) = true := by
  suffices h : ∀ m a, Memory.wf ((List.range' a m).map fun k => (k, f k)) = true by
    simpa [List.range_eq_range'] using h n 0
  intro m
  induction m with
  | zero => intro a; rfl
  | succ m ih =>
    intro a
    rw [List.range'_succ, List.map_cons]
    refine (Memory.wf_cons ..).2 ⟨?_, ih (a + 1)⟩
    intro e he
    obtain ⟨k, hk, rfl⟩ := List.mem_map.1 he
    have := (List.mem_range'_1.1 hk).1
    simp only
    omega

end Sys2Proof.Machine
end

