-- ==== Sys2Proof/Laws/State.lean ====
section
/-!
SUPPORT. One lemma per field per update of the state, each true by rfl: what a named update sets and what it leaves.
-/

namespace Sys2Proof.Machine

variable (s : State)

/-! ### withResult -/

@[simp] theorem State.withResult_lastEdgeTime (r : Option CycleFailure) : (s.withResult r).lastEdgeTime = s.lastEdgeTime := rfl
@[simp] theorem State.withResult_armed (r : Option CycleFailure) : (s.withResult r).armed = s.armed := rfl
@[simp] theorem State.withResult_wr (r : Option CycleFailure) : (s.withResult r).wr = s.wr := rfl
@[simp] theorem State.withResult_buf (r : Option CycleFailure) : (s.withResult r).buf = s.buf := rfl
@[simp] theorem State.withResult_outstanding (r : Option CycleFailure) : (s.withResult r).outstanding = s.outstanding := rfl
@[simp] theorem State.withResult_armTime (r : Option CycleFailure) : (s.withResult r).armTime = s.armTime := rfl
@[simp] theorem State.withResult_suppress (r : Option CycleFailure) : (s.withResult r).suppress = s.suppress := rfl
@[simp] theorem State.withResult_configured (r : Option CycleFailure) : (s.withResult r).configured = s.configured := rfl
@[simp] theorem State.withResult_model (r : Option CycleFailure) : (s.withResult r).model = s.model := rfl
@[simp] theorem State.withResult_pin (r : Option CycleFailure) : (s.withResult r).pin = s.pin := rfl
@[simp] theorem State.withResult_pinmode (r : Option CycleFailure) : (s.withResult r).pinmode = s.pinmode := rfl
@[simp] theorem State.withResult_hc (r : Option CycleFailure) : (s.withResult r).hc = s.hc := rfl
@[simp] theorem State.withResult_ac (r : Option CycleFailure) : (s.withResult r).ac = s.ac := rfl
@[simp] theorem State.withResult_bits (r : Option CycleFailure) : (s.withResult r).bits = s.bits := rfl
@[simp] theorem State.withResult_blen (r : Option CycleFailure) : (s.withResult r).blen = s.blen := rfl
@[simp] theorem State.withResult_inverted (r : Option CycleFailure) : (s.withResult r).inverted = s.inverted := rfl
@[simp] theorem State.withResult_syncPos (r : Option CycleFailure) : (s.withResult r).syncPos = s.syncPos := rfl
@[simp] theorem State.withResult_start (r : Option CycleFailure) : (s.withResult r).start = s.start := rfl
@[simp] theorem State.withResult_frame (r : Option CycleFailure) : (s.withResult r).frame = s.frame := rfl
@[simp] theorem State.withResult_valid (r : Option CycleFailure) : (s.withResult r).valid = s.valid := rfl
@[simp] theorem State.withResult_status (r : Option CycleFailure) : (s.withResult r).status = s.status := rfl
@[simp] theorem State.withResult_res (r : Option CycleFailure) : (s.withResult r).res = s.res := rfl
@[simp] theorem State.withResult_par (r : Option CycleFailure) : (s.withResult r).par = s.par := rfl
@[simp] theorem State.withResult_pos (r : Option CycleFailure) : (s.withResult r).pos = s.pos := rfl
@[simp] theorem State.withResult_result (r : Option CycleFailure) : (s.withResult r).result = r := rfl
@[simp] theorem State.withResult_free (r : Option CycleFailure) : (s.withResult r).free = s.free := rfl
@[simp] theorem State.withResult_inbox (r : Option CycleFailure) : (s.withResult r).inbox = s.inbox := rfl
@[simp] theorem State.withResult_outs (r : Option CycleFailure) : (s.withResult r).outs = s.outs := rfl
@[simp] theorem State.withResult_profile (r : Option CycleFailure) : (s.withResult r).profile = s.profile := rfl
@[simp] theorem State.withResult_readCode (r : Option CycleFailure) : (s.withResult r).readCode = s.readCode := rfl
@[simp] theorem State.withResult_readBit (r : Option CycleFailure) : (s.withResult r).readBit = s.readBit := rfl
@[simp] theorem State.withResult_readFrame (r : Option CycleFailure) : (s.withResult r).readFrame = s.readFrame := rfl

/-! ### report -/

@[simp] theorem State.report_lastEdgeTime (c : Status) : (s.report c).lastEdgeTime = s.lastEdgeTime := rfl
@[simp] theorem State.report_armed (c : Status) : (s.report c).armed = s.armed := rfl
@[simp] theorem State.report_wr (c : Status) : (s.report c).wr = s.wr := rfl
@[simp] theorem State.report_buf (c : Status) : (s.report c).buf = s.buf := rfl
@[simp] theorem State.report_outstanding (c : Status) : (s.report c).outstanding = s.outstanding := rfl
@[simp] theorem State.report_armTime (c : Status) : (s.report c).armTime = s.armTime := rfl
@[simp] theorem State.report_suppress (c : Status) : (s.report c).suppress = s.suppress := rfl
@[simp] theorem State.report_configured (c : Status) : (s.report c).configured = s.configured := rfl
@[simp] theorem State.report_model (c : Status) : (s.report c).model = s.model := rfl
@[simp] theorem State.report_pin (c : Status) : (s.report c).pin = s.pin := rfl
@[simp] theorem State.report_pinmode (c : Status) : (s.report c).pinmode = s.pinmode := rfl
@[simp] theorem State.report_hc (c : Status) : (s.report c).hc = s.hc := rfl
@[simp] theorem State.report_ac (c : Status) : (s.report c).ac = s.ac := rfl
@[simp] theorem State.report_bits (c : Status) : (s.report c).bits = s.bits := rfl
@[simp] theorem State.report_blen (c : Status) : (s.report c).blen = s.blen := rfl
@[simp] theorem State.report_inverted (c : Status) : (s.report c).inverted = s.inverted := rfl
@[simp] theorem State.report_syncPos (c : Status) : (s.report c).syncPos = s.syncPos := rfl
@[simp] theorem State.report_start (c : Status) : (s.report c).start = s.start := rfl
@[simp] theorem State.report_frame (c : Status) : (s.report c).frame = s.frame := rfl
@[simp] theorem State.report_valid (c : Status) : (s.report c).valid = s.valid := rfl
@[simp] theorem State.report_status (c : Status) : (s.report c).status = s.status := rfl
@[simp] theorem State.report_res (c : Status) : (s.report c).res = s.res := rfl
@[simp] theorem State.report_par (c : Status) : (s.report c).par = s.par := rfl
@[simp] theorem State.report_pos (c : Status) : (s.report c).pos = s.pos := rfl
@[simp] theorem State.report_result (c : Status) : (s.report c).result = s.result := rfl
@[simp] theorem State.report_free (c : Status) : (s.report c).free = s.free := rfl
@[simp] theorem State.report_inbox (c : Status) : (s.report c).inbox = s.inbox := rfl
@[simp] theorem State.report_outs (c : Status) : (s.report c).outs = s.outs ++ [.report c] := rfl
@[simp] theorem State.report_profile (c : Status) : (s.report c).profile = s.profile := rfl
@[simp] theorem State.report_readCode (c : Status) : (s.report c).readCode = s.readCode := rfl
@[simp] theorem State.report_readBit (c : Status) : (s.report c).readBit = s.readBit := rfl
@[simp] theorem State.report_readFrame (c : Status) : (s.report c).readFrame = s.readFrame := rfl

/-! ### answer -/

@[simp] theorem State.answer_lastEdgeTime (r : FieldResult) : (s.answer r).lastEdgeTime = s.lastEdgeTime := rfl
@[simp] theorem State.answer_armed (r : FieldResult) : (s.answer r).armed = s.armed := rfl
@[simp] theorem State.answer_wr (r : FieldResult) : (s.answer r).wr = s.wr := rfl
@[simp] theorem State.answer_buf (r : FieldResult) : (s.answer r).buf = s.buf := rfl
@[simp] theorem State.answer_outstanding (r : FieldResult) : (s.answer r).outstanding = s.outstanding := rfl
@[simp] theorem State.answer_armTime (r : FieldResult) : (s.answer r).armTime = s.armTime := rfl
@[simp] theorem State.answer_suppress (r : FieldResult) : (s.answer r).suppress = s.suppress := rfl
@[simp] theorem State.answer_configured (r : FieldResult) : (s.answer r).configured = s.configured := rfl
@[simp] theorem State.answer_model (r : FieldResult) : (s.answer r).model = s.model := rfl
@[simp] theorem State.answer_pin (r : FieldResult) : (s.answer r).pin = s.pin := rfl
@[simp] theorem State.answer_pinmode (r : FieldResult) : (s.answer r).pinmode = s.pinmode := rfl
@[simp] theorem State.answer_hc (r : FieldResult) : (s.answer r).hc = s.hc := rfl
@[simp] theorem State.answer_ac (r : FieldResult) : (s.answer r).ac = s.ac := rfl
@[simp] theorem State.answer_bits (r : FieldResult) : (s.answer r).bits = s.bits := rfl
@[simp] theorem State.answer_blen (r : FieldResult) : (s.answer r).blen = s.blen := rfl
@[simp] theorem State.answer_inverted (r : FieldResult) : (s.answer r).inverted = s.inverted := rfl
@[simp] theorem State.answer_syncPos (r : FieldResult) : (s.answer r).syncPos = s.syncPos := rfl
@[simp] theorem State.answer_start (r : FieldResult) : (s.answer r).start = s.start := rfl
@[simp] theorem State.answer_frame (r : FieldResult) : (s.answer r).frame = s.frame := rfl
@[simp] theorem State.answer_valid (r : FieldResult) : (s.answer r).valid = s.valid := rfl
@[simp] theorem State.answer_status (r : FieldResult) : (s.answer r).status = s.status := rfl
@[simp] theorem State.answer_res (r : FieldResult) : (s.answer r).res = s.res := rfl
@[simp] theorem State.answer_par (r : FieldResult) : (s.answer r).par = s.par := rfl
@[simp] theorem State.answer_pos (r : FieldResult) : (s.answer r).pos = s.pos := rfl
@[simp] theorem State.answer_result (r : FieldResult) : (s.answer r).result = s.result := rfl
@[simp] theorem State.answer_free (r : FieldResult) : (s.answer r).free = s.free := rfl
@[simp] theorem State.answer_inbox (r : FieldResult) : (s.answer r).inbox = s.inbox := rfl
@[simp] theorem State.answer_outs (r : FieldResult) : (s.answer r).outs = s.outs ++ [.field r] := rfl
@[simp] theorem State.answer_profile (r : FieldResult) : (s.answer r).profile = s.profile := rfl
@[simp] theorem State.answer_readCode (r : FieldResult) : (s.answer r).readCode = s.readCode := rfl
@[simp] theorem State.answer_readBit (r : FieldResult) : (s.answer r).readBit = s.readBit := rfl
@[simp] theorem State.answer_readFrame (r : FieldResult) : (s.answer r).readFrame = s.readFrame := rfl

/-! ### fail -/

@[simp] theorem State.fail_lastEdgeTime (c : CycleFailure) : (s.fail c).lastEdgeTime = s.lastEdgeTime := rfl
@[simp] theorem State.fail_armed (c : CycleFailure) : (s.fail c).armed = s.armed := rfl
@[simp] theorem State.fail_wr (c : CycleFailure) : (s.fail c).wr = s.wr := rfl
@[simp] theorem State.fail_buf (c : CycleFailure) : (s.fail c).buf = s.buf := rfl
@[simp] theorem State.fail_outstanding (c : CycleFailure) : (s.fail c).outstanding = s.outstanding := rfl
@[simp] theorem State.fail_armTime (c : CycleFailure) : (s.fail c).armTime = s.armTime := rfl
@[simp] theorem State.fail_suppress (c : CycleFailure) : (s.fail c).suppress = s.suppress := rfl
@[simp] theorem State.fail_configured (c : CycleFailure) : (s.fail c).configured = s.configured := rfl
@[simp] theorem State.fail_model (c : CycleFailure) : (s.fail c).model = s.model := rfl
@[simp] theorem State.fail_pin (c : CycleFailure) : (s.fail c).pin = s.pin := rfl
@[simp] theorem State.fail_pinmode (c : CycleFailure) : (s.fail c).pinmode = s.pinmode := rfl
@[simp] theorem State.fail_hc (c : CycleFailure) : (s.fail c).hc = s.hc := rfl
@[simp] theorem State.fail_ac (c : CycleFailure) : (s.fail c).ac = s.ac := rfl
@[simp] theorem State.fail_bits (c : CycleFailure) : (s.fail c).bits = s.bits := rfl
@[simp] theorem State.fail_blen (c : CycleFailure) : (s.fail c).blen = s.blen := rfl
@[simp] theorem State.fail_inverted (c : CycleFailure) : (s.fail c).inverted = s.inverted := rfl
@[simp] theorem State.fail_syncPos (c : CycleFailure) : (s.fail c).syncPos = s.syncPos := rfl
@[simp] theorem State.fail_start (c : CycleFailure) : (s.fail c).start = s.start := rfl
@[simp] theorem State.fail_frame (c : CycleFailure) : (s.fail c).frame = s.frame := rfl
@[simp] theorem State.fail_valid (c : CycleFailure) : (s.fail c).valid = false := rfl
@[simp] theorem State.fail_status (c : CycleFailure) : (s.fail c).status = c.status := rfl
@[simp] theorem State.fail_res (c : CycleFailure) : (s.fail c).res = .aborted := rfl
@[simp] theorem State.fail_par (c : CycleFailure) : (s.fail c).par = s.par := rfl
@[simp] theorem State.fail_pos (c : CycleFailure) : (s.fail c).pos = s.pos := rfl
@[simp] theorem State.fail_result (c : CycleFailure) : (s.fail c).result = s.result := rfl
@[simp] theorem State.fail_free (c : CycleFailure) : (s.fail c).free = s.free := rfl
@[simp] theorem State.fail_inbox (c : CycleFailure) : (s.fail c).inbox = s.inbox := rfl
@[simp] theorem State.fail_outs (c : CycleFailure) : (s.fail c).outs = s.outs ++ [.report c.status] := rfl
@[simp] theorem State.fail_profile (c : CycleFailure) : (s.fail c).profile = s.profile := rfl
@[simp] theorem State.fail_readCode (c : CycleFailure) : (s.fail c).readCode = s.readCode := rfl
@[simp] theorem State.fail_readBit (c : CycleFailure) : (s.fail c).readBit = s.readBit := rfl
@[simp] theorem State.fail_readFrame (c : CycleFailure) : (s.fail c).readFrame = s.readFrame := rfl

/-! ### timeout -/

@[simp] theorem State.timeout_lastEdgeTime : (s.timeout).lastEdgeTime = s.lastEdgeTime := rfl
@[simp] theorem State.timeout_armed : (s.timeout).armed = false := rfl
@[simp] theorem State.timeout_wr : (s.timeout).wr = s.wr := rfl
@[simp] theorem State.timeout_buf : (s.timeout).buf = s.buf := rfl
@[simp] theorem State.timeout_outstanding : (s.timeout).outstanding = false := rfl
@[simp] theorem State.timeout_armTime : (s.timeout).armTime = s.armTime := rfl
@[simp] theorem State.timeout_suppress : (s.timeout).suppress = true := rfl
@[simp] theorem State.timeout_configured : (s.timeout).configured = s.configured := rfl
@[simp] theorem State.timeout_model : (s.timeout).model = s.model := rfl
@[simp] theorem State.timeout_pin : (s.timeout).pin = s.pin := rfl
@[simp] theorem State.timeout_pinmode : (s.timeout).pinmode = s.pinmode := rfl
@[simp] theorem State.timeout_hc : (s.timeout).hc = s.hc := rfl
@[simp] theorem State.timeout_ac : (s.timeout).ac = s.ac := rfl
@[simp] theorem State.timeout_bits : (s.timeout).bits = s.bits := rfl
@[simp] theorem State.timeout_blen : (s.timeout).blen = s.blen := rfl
@[simp] theorem State.timeout_inverted : (s.timeout).inverted = s.inverted := rfl
@[simp] theorem State.timeout_syncPos : (s.timeout).syncPos = s.syncPos := rfl
@[simp] theorem State.timeout_start : (s.timeout).start = s.start := rfl
@[simp] theorem State.timeout_frame : (s.timeout).frame = s.frame := rfl
@[simp] theorem State.timeout_valid : (s.timeout).valid = false := rfl
@[simp] theorem State.timeout_status : (s.timeout).status = .captureTimeout := rfl
@[simp] theorem State.timeout_res : (s.timeout).res = .aborted := rfl
@[simp] theorem State.timeout_par : (s.timeout).par = s.par := rfl
@[simp] theorem State.timeout_pos : (s.timeout).pos = s.pos := rfl
@[simp] theorem State.timeout_result : (s.timeout).result = s.result := rfl
@[simp] theorem State.timeout_free : (s.timeout).free = s.free := rfl
@[simp] theorem State.timeout_inbox : (s.timeout).inbox = s.inbox := rfl
@[simp] theorem State.timeout_outs : (s.timeout).outs = s.outs ++ [.report .captureTimeout] := rfl
@[simp] theorem State.timeout_profile : (s.timeout).profile = s.profile := rfl
@[simp] theorem State.timeout_readCode : (s.timeout).readCode = s.readCode := rfl
@[simp] theorem State.timeout_readBit : (s.timeout).readBit = s.readBit := rfl
@[simp] theorem State.timeout_readFrame : (s.timeout).readFrame = s.readFrame := rfl

/-! ### arm -/

@[simp] theorem State.arm_lastEdgeTime (now : Time) : (s.arm now).lastEdgeTime = s.lastEdgeTime := rfl
@[simp] theorem State.arm_armed (now : Time) : (s.arm now).armed = true := rfl
@[simp] theorem State.arm_wr (now : Time) : (s.arm now).wr = 0 := rfl
@[simp] theorem State.arm_buf (now : Time) : (s.arm now).buf = s.buf := rfl
@[simp] theorem State.arm_outstanding (now : Time) : (s.arm now).outstanding = true := rfl
@[simp] theorem State.arm_armTime (now : Time) : (s.arm now).armTime = now := rfl
@[simp] theorem State.arm_suppress (now : Time) : (s.arm now).suppress = s.suppress := rfl
@[simp] theorem State.arm_configured (now : Time) : (s.arm now).configured = s.configured := rfl
@[simp] theorem State.arm_model (now : Time) : (s.arm now).model = s.model := rfl
@[simp] theorem State.arm_pin (now : Time) : (s.arm now).pin = s.pin := rfl
@[simp] theorem State.arm_pinmode (now : Time) : (s.arm now).pinmode = s.pinmode := rfl
@[simp] theorem State.arm_hc (now : Time) : (s.arm now).hc = s.hc := rfl
@[simp] theorem State.arm_ac (now : Time) : (s.arm now).ac = s.ac := rfl
@[simp] theorem State.arm_bits (now : Time) : (s.arm now).bits = s.bits := rfl
@[simp] theorem State.arm_blen (now : Time) : (s.arm now).blen = s.blen := rfl
@[simp] theorem State.arm_inverted (now : Time) : (s.arm now).inverted = s.inverted := rfl
@[simp] theorem State.arm_syncPos (now : Time) : (s.arm now).syncPos = s.syncPos := rfl
@[simp] theorem State.arm_start (now : Time) : (s.arm now).start = s.start := rfl
@[simp] theorem State.arm_frame (now : Time) : (s.arm now).frame = s.frame := rfl
@[simp] theorem State.arm_valid (now : Time) : (s.arm now).valid = false := rfl
@[simp] theorem State.arm_status (now : Time) : (s.arm now).status = .none := rfl
@[simp] theorem State.arm_res (now : Time) : (s.arm now).res = s.res := rfl
@[simp] theorem State.arm_par (now : Time) : (s.arm now).par = s.par := rfl
@[simp] theorem State.arm_pos (now : Time) : (s.arm now).pos = s.pos := rfl
@[simp] theorem State.arm_result (now : Time) : (s.arm now).result = s.result := rfl
@[simp] theorem State.arm_free (now : Time) : (s.arm now).free = s.free := rfl
@[simp] theorem State.arm_inbox (now : Time) : (s.arm now).inbox = s.inbox := rfl
@[simp] theorem State.arm_outs (now : Time) : (s.arm now).outs = s.outs := rfl
@[simp] theorem State.arm_profile (now : Time) : (s.arm now).profile = s.profile := rfl
@[simp] theorem State.arm_readCode (now : Time) : (s.arm now).readCode = s.readCode := rfl
@[simp] theorem State.arm_readBit (now : Time) : (s.arm now).readBit = s.readBit := rfl
@[simp] theorem State.arm_readFrame (now : Time) : (s.arm now).readFrame = s.readFrame := rfl

/-! ### emitted -/

@[simp] theorem State.emitted_lastEdgeTime (b : Bool) : (s.emitted b).lastEdgeTime = s.lastEdgeTime := rfl
@[simp] theorem State.emitted_armed (b : Bool) : (s.emitted b).armed = s.armed := rfl
@[simp] theorem State.emitted_wr (b : Bool) : (s.emitted b).wr = s.wr := rfl
@[simp] theorem State.emitted_buf (b : Bool) : (s.emitted b).buf = s.buf := rfl
@[simp] theorem State.emitted_outstanding (b : Bool) : (s.emitted b).outstanding = s.outstanding := rfl
@[simp] theorem State.emitted_armTime (b : Bool) : (s.emitted b).armTime = s.armTime := rfl
@[simp] theorem State.emitted_suppress (b : Bool) : (s.emitted b).suppress = s.suppress := rfl
@[simp] theorem State.emitted_configured (b : Bool) : (s.emitted b).configured = s.configured := rfl
@[simp] theorem State.emitted_model (b : Bool) : (s.emitted b).model = s.model := rfl
@[simp] theorem State.emitted_pin (b : Bool) : (s.emitted b).pin = s.pin := rfl
@[simp] theorem State.emitted_pinmode (b : Bool) : (s.emitted b).pinmode = s.pinmode := rfl
@[simp] theorem State.emitted_hc (b : Bool) : (s.emitted b).hc = s.hc + 1 := rfl
@[simp] theorem State.emitted_ac (b : Bool) : (s.emitted b).ac = s.ac := rfl
@[simp] theorem State.emitted_bits (b : Bool) : (s.emitted b).bits = if s.hc % 2 = 1 then s.bits.write (s.hc / 2) b else s.bits := rfl
@[simp] theorem State.emitted_blen (b : Bool) : (s.emitted b).blen = s.blen := rfl
@[simp] theorem State.emitted_inverted (b : Bool) : (s.emitted b).inverted = s.inverted := rfl
@[simp] theorem State.emitted_syncPos (b : Bool) : (s.emitted b).syncPos = s.syncPos := rfl
@[simp] theorem State.emitted_start (b : Bool) : (s.emitted b).start = s.start := rfl
@[simp] theorem State.emitted_frame (b : Bool) : (s.emitted b).frame = s.frame := rfl
@[simp] theorem State.emitted_valid (b : Bool) : (s.emitted b).valid = s.valid := rfl
@[simp] theorem State.emitted_status (b : Bool) : (s.emitted b).status = s.status := rfl
@[simp] theorem State.emitted_res (b : Bool) : (s.emitted b).res = s.res := rfl
@[simp] theorem State.emitted_par (b : Bool) : (s.emitted b).par = s.par := rfl
@[simp] theorem State.emitted_pos (b : Bool) : (s.emitted b).pos = s.pos := rfl
@[simp] theorem State.emitted_result (b : Bool) : (s.emitted b).result = s.result := rfl
@[simp] theorem State.emitted_free (b : Bool) : (s.emitted b).free = s.free := rfl
@[simp] theorem State.emitted_inbox (b : Bool) : (s.emitted b).inbox = s.inbox := rfl
@[simp] theorem State.emitted_outs (b : Bool) : (s.emitted b).outs = s.outs := rfl
@[simp] theorem State.emitted_profile (b : Bool) : (s.emitted b).profile = s.profile := rfl
@[simp] theorem State.emitted_readCode (b : Bool) : (s.emitted b).readCode = s.readCode := rfl
@[simp] theorem State.emitted_readFrame (b : Bool) : (s.emitted b).readFrame = s.readFrame := rfl

/-! ### nextSlot -/

@[simp] theorem State.nextSlot_lastEdgeTime : (s.nextSlot).lastEdgeTime = s.lastEdgeTime := rfl
@[simp] theorem State.nextSlot_armed : (s.nextSlot).armed = s.armed := rfl
@[simp] theorem State.nextSlot_wr : (s.nextSlot).wr = s.wr := rfl
@[simp] theorem State.nextSlot_buf : (s.nextSlot).buf = s.buf := rfl
@[simp] theorem State.nextSlot_outstanding : (s.nextSlot).outstanding = s.outstanding := rfl
@[simp] theorem State.nextSlot_armTime : (s.nextSlot).armTime = s.armTime := rfl
@[simp] theorem State.nextSlot_suppress : (s.nextSlot).suppress = s.suppress := rfl
@[simp] theorem State.nextSlot_configured : (s.nextSlot).configured = s.configured := rfl
@[simp] theorem State.nextSlot_model : (s.nextSlot).model = s.model := rfl
@[simp] theorem State.nextSlot_pin : (s.nextSlot).pin = s.pin := rfl
@[simp] theorem State.nextSlot_pinmode : (s.nextSlot).pinmode = s.pinmode := rfl
@[simp] theorem State.nextSlot_hc : (s.nextSlot).hc = s.hc := rfl
@[simp] theorem State.nextSlot_ac : (s.nextSlot).ac = s.ac := rfl
@[simp] theorem State.nextSlot_bits : (s.nextSlot).bits = s.bits := rfl
@[simp] theorem State.nextSlot_blen : (s.nextSlot).blen = s.blen := rfl
@[simp] theorem State.nextSlot_inverted : (s.nextSlot).inverted = s.inverted := rfl
@[simp] theorem State.nextSlot_syncPos : (s.nextSlot).syncPos = s.syncPos := rfl
@[simp] theorem State.nextSlot_start : (s.nextSlot).start = s.start := rfl
@[simp] theorem State.nextSlot_frame : (s.nextSlot).frame = s.frame := rfl
@[simp] theorem State.nextSlot_valid : (s.nextSlot).valid = s.valid := rfl
@[simp] theorem State.nextSlot_status : (s.nextSlot).status = s.status := rfl
@[simp] theorem State.nextSlot_res : (s.nextSlot).res = s.res := rfl
@[simp] theorem State.nextSlot_par : (s.nextSlot).par = s.par := rfl
@[simp] theorem State.nextSlot_pos : (s.nextSlot).pos = s.pos + 1 := rfl
@[simp] theorem State.nextSlot_result : (s.nextSlot).result = none := rfl
@[simp] theorem State.nextSlot_free : (s.nextSlot).free = s.free := rfl
@[simp] theorem State.nextSlot_inbox : (s.nextSlot).inbox = s.inbox := rfl
@[simp] theorem State.nextSlot_outs : (s.nextSlot).outs = s.outs := rfl
@[simp] theorem State.nextSlot_profile : (s.nextSlot).profile = s.profile := rfl
@[simp] theorem State.nextSlot_readCode : (s.nextSlot).readCode = s.readCode := rfl
@[simp] theorem State.nextSlot_readBit : (s.nextSlot).readBit = s.readBit := rfl
@[simp] theorem State.nextSlot_readFrame : (s.nextSlot).readFrame = s.readFrame := rfl

/-! ### countAnomaly -/

@[simp] theorem State.countAnomaly_lastEdgeTime : (s.countAnomaly).lastEdgeTime = s.lastEdgeTime := rfl
@[simp] theorem State.countAnomaly_armed : (s.countAnomaly).armed = s.armed := rfl
@[simp] theorem State.countAnomaly_wr : (s.countAnomaly).wr = s.wr := rfl
@[simp] theorem State.countAnomaly_buf : (s.countAnomaly).buf = s.buf := rfl
@[simp] theorem State.countAnomaly_outstanding : (s.countAnomaly).outstanding = s.outstanding := rfl
@[simp] theorem State.countAnomaly_armTime : (s.countAnomaly).armTime = s.armTime := rfl
@[simp] theorem State.countAnomaly_suppress : (s.countAnomaly).suppress = s.suppress := rfl
@[simp] theorem State.countAnomaly_configured : (s.countAnomaly).configured = s.configured := rfl
@[simp] theorem State.countAnomaly_model : (s.countAnomaly).model = s.model := rfl
@[simp] theorem State.countAnomaly_pin : (s.countAnomaly).pin = s.pin := rfl
@[simp] theorem State.countAnomaly_pinmode : (s.countAnomaly).pinmode = s.pinmode := rfl
@[simp] theorem State.countAnomaly_hc : (s.countAnomaly).hc = s.hc := rfl
@[simp] theorem State.countAnomaly_ac : (s.countAnomaly).ac = s.ac + 1 := rfl
@[simp] theorem State.countAnomaly_bits : (s.countAnomaly).bits = s.bits := rfl
@[simp] theorem State.countAnomaly_blen : (s.countAnomaly).blen = s.blen := rfl
@[simp] theorem State.countAnomaly_inverted : (s.countAnomaly).inverted = s.inverted := rfl
@[simp] theorem State.countAnomaly_syncPos : (s.countAnomaly).syncPos = s.syncPos := rfl
@[simp] theorem State.countAnomaly_start : (s.countAnomaly).start = s.start := rfl
@[simp] theorem State.countAnomaly_frame : (s.countAnomaly).frame = s.frame := rfl
@[simp] theorem State.countAnomaly_valid : (s.countAnomaly).valid = s.valid := rfl
@[simp] theorem State.countAnomaly_status : (s.countAnomaly).status = s.status := rfl
@[simp] theorem State.countAnomaly_res : (s.countAnomaly).res = s.res := rfl
@[simp] theorem State.countAnomaly_par : (s.countAnomaly).par = s.par := rfl
@[simp] theorem State.countAnomaly_pos : (s.countAnomaly).pos = s.pos := rfl
@[simp] theorem State.countAnomaly_result : (s.countAnomaly).result = s.result := rfl
@[simp] theorem State.countAnomaly_free : (s.countAnomaly).free = s.free := rfl
@[simp] theorem State.countAnomaly_inbox : (s.countAnomaly).inbox = s.inbox := rfl
@[simp] theorem State.countAnomaly_outs : (s.countAnomaly).outs = s.outs := rfl
@[simp] theorem State.countAnomaly_profile : (s.countAnomaly).profile = s.profile := rfl
@[simp] theorem State.countAnomaly_readCode : (s.countAnomaly).readCode = s.readCode := rfl
@[simp] theorem State.countAnomaly_readBit : (s.countAnomaly).readBit = s.readBit := rfl
@[simp] theorem State.countAnomaly_readFrame : (s.countAnomaly).readFrame = s.readFrame := rfl

/-! ### loseBits -/

@[simp] theorem State.loseBits_lastEdgeTime (cap : Nat) : (s.loseBits cap).lastEdgeTime = s.lastEdgeTime := rfl
@[simp] theorem State.loseBits_armed (cap : Nat) : (s.loseBits cap).armed = s.armed := rfl
@[simp] theorem State.loseBits_wr (cap : Nat) : (s.loseBits cap).wr = s.wr := rfl
@[simp] theorem State.loseBits_buf (cap : Nat) : (s.loseBits cap).buf = s.buf := rfl
@[simp] theorem State.loseBits_outstanding (cap : Nat) : (s.loseBits cap).outstanding = s.outstanding := rfl
@[simp] theorem State.loseBits_armTime (cap : Nat) : (s.loseBits cap).armTime = s.armTime := rfl
@[simp] theorem State.loseBits_suppress (cap : Nat) : (s.loseBits cap).suppress = s.suppress := rfl
@[simp] theorem State.loseBits_configured (cap : Nat) : (s.loseBits cap).configured = s.configured := rfl
@[simp] theorem State.loseBits_model (cap : Nat) : (s.loseBits cap).model = s.model := rfl
@[simp] theorem State.loseBits_pin (cap : Nat) : (s.loseBits cap).pin = s.pin := rfl
@[simp] theorem State.loseBits_pinmode (cap : Nat) : (s.loseBits cap).pinmode = s.pinmode := rfl
@[simp] theorem State.loseBits_hc (cap : Nat) : (s.loseBits cap).hc = s.hc := rfl
@[simp] theorem State.loseBits_ac (cap : Nat) : (s.loseBits cap).ac = s.ac := rfl
@[simp] theorem State.loseBits_blen (cap : Nat) : (s.loseBits cap).blen = Config.freeNat (s.free + cap) % (cap + 1) := rfl
@[simp] theorem State.loseBits_inverted (cap : Nat) : (s.loseBits cap).inverted = s.inverted := rfl
@[simp] theorem State.loseBits_syncPos (cap : Nat) : (s.loseBits cap).syncPos = s.syncPos := rfl
@[simp] theorem State.loseBits_start (cap : Nat) : (s.loseBits cap).start = s.start := rfl
@[simp] theorem State.loseBits_frame (cap : Nat) : (s.loseBits cap).frame = s.frame := rfl
@[simp] theorem State.loseBits_valid (cap : Nat) : (s.loseBits cap).valid = s.valid := rfl
@[simp] theorem State.loseBits_status (cap : Nat) : (s.loseBits cap).status = s.status := rfl
@[simp] theorem State.loseBits_res (cap : Nat) : (s.loseBits cap).res = s.res := rfl
@[simp] theorem State.loseBits_par (cap : Nat) : (s.loseBits cap).par = s.par := rfl
@[simp] theorem State.loseBits_pos (cap : Nat) : (s.loseBits cap).pos = s.pos := rfl
@[simp] theorem State.loseBits_result (cap : Nat) : (s.loseBits cap).result = s.result := rfl
@[simp] theorem State.loseBits_free (cap : Nat) : (s.loseBits cap).free = s.free + cap + 1 := rfl
@[simp] theorem State.loseBits_inbox (cap : Nat) : (s.loseBits cap).inbox = s.inbox := rfl
@[simp] theorem State.loseBits_outs (cap : Nat) : (s.loseBits cap).outs = s.outs := rfl
@[simp] theorem State.loseBits_profile (cap : Nat) : (s.loseBits cap).profile = s.profile := rfl
@[simp] theorem State.loseBits_readCode (cap : Nat) : (s.loseBits cap).readCode = s.readCode := rfl
@[simp] theorem State.loseBits_readFrame (cap : Nat) : (s.loseBits cap).readFrame = s.readFrame := rfl

/-! ### loseSync -/

@[simp] theorem State.loseSync_lastEdgeTime (cap : Nat) : (s.loseSync cap).lastEdgeTime = s.lastEdgeTime := rfl
@[simp] theorem State.loseSync_armed (cap : Nat) : (s.loseSync cap).armed = s.armed := rfl
@[simp] theorem State.loseSync_wr (cap : Nat) : (s.loseSync cap).wr = s.wr := rfl
@[simp] theorem State.loseSync_buf (cap : Nat) : (s.loseSync cap).buf = s.buf := rfl
@[simp] theorem State.loseSync_outstanding (cap : Nat) : (s.loseSync cap).outstanding = s.outstanding := rfl
@[simp] theorem State.loseSync_armTime (cap : Nat) : (s.loseSync cap).armTime = s.armTime := rfl
@[simp] theorem State.loseSync_suppress (cap : Nat) : (s.loseSync cap).suppress = s.suppress := rfl
@[simp] theorem State.loseSync_configured (cap : Nat) : (s.loseSync cap).configured = s.configured := rfl
@[simp] theorem State.loseSync_model (cap : Nat) : (s.loseSync cap).model = s.model := rfl
@[simp] theorem State.loseSync_pin (cap : Nat) : (s.loseSync cap).pin = s.pin := rfl
@[simp] theorem State.loseSync_pinmode (cap : Nat) : (s.loseSync cap).pinmode = s.pinmode := rfl
@[simp] theorem State.loseSync_hc (cap : Nat) : (s.loseSync cap).hc = s.hc := rfl
@[simp] theorem State.loseSync_ac (cap : Nat) : (s.loseSync cap).ac = s.ac := rfl
@[simp] theorem State.loseSync_bits (cap : Nat) : (s.loseSync cap).bits = s.bits := rfl
@[simp] theorem State.loseSync_blen (cap : Nat) : (s.loseSync cap).blen = s.blen := rfl
@[simp] theorem State.loseSync_inverted (cap : Nat) : (s.loseSync cap).inverted = Config.freeBit (s.free + 2) := rfl
@[simp] theorem State.loseSync_syncPos (cap : Nat) : (s.loseSync cap).syncPos = Config.freeNat s.free % (cap + 1) := rfl
@[simp] theorem State.loseSync_start (cap : Nat) : (s.loseSync cap).start = Config.freeNat (s.free + 1) % (cap + 1) := rfl
@[simp] theorem State.loseSync_frame (cap : Nat) : (s.loseSync cap).frame = s.frame := rfl
@[simp] theorem State.loseSync_valid (cap : Nat) : (s.loseSync cap).valid = s.valid := rfl
@[simp] theorem State.loseSync_status (cap : Nat) : (s.loseSync cap).status = s.status := rfl
@[simp] theorem State.loseSync_res (cap : Nat) : (s.loseSync cap).res = s.res := rfl
@[simp] theorem State.loseSync_par (cap : Nat) : (s.loseSync cap).par = s.par := rfl
@[simp] theorem State.loseSync_pos (cap : Nat) : (s.loseSync cap).pos = s.pos := rfl
@[simp] theorem State.loseSync_result (cap : Nat) : (s.loseSync cap).result = s.result := rfl
@[simp] theorem State.loseSync_free (cap : Nat) : (s.loseSync cap).free = s.free + 3 := rfl
@[simp] theorem State.loseSync_inbox (cap : Nat) : (s.loseSync cap).inbox = s.inbox := rfl
@[simp] theorem State.loseSync_outs (cap : Nat) : (s.loseSync cap).outs = s.outs := rfl
@[simp] theorem State.loseSync_profile (cap : Nat) : (s.loseSync cap).profile = s.profile := rfl
@[simp] theorem State.loseSync_readCode (cap : Nat) : (s.loseSync cap).readCode = s.readCode := rfl
@[simp] theorem State.loseSync_readBit (cap : Nat) : (s.loseSync cap).readBit = s.readBit := rfl
@[simp] theorem State.loseSync_readFrame (cap : Nat) : (s.loseSync cap).readFrame = s.readFrame := rfl

/-! ### storeCode -/

@[simp] theorem State.storeCode_lastEdgeTime (cap : Nat) (c : PulseCode) : (s.storeCode cap c).lastEdgeTime = s.lastEdgeTime := rfl
@[simp] theorem State.storeCode_armed (cap : Nat) (c : PulseCode) : (s.storeCode cap c).armed = (s.armed && !decide (s.wr + 1 = cap)) := rfl
@[simp] theorem State.storeCode_wr (cap : Nat) (c : PulseCode) : (s.storeCode cap c).wr = s.wr + 1 := rfl
@[simp] theorem State.storeCode_buf (cap : Nat) (c : PulseCode) : (s.storeCode cap c).buf = s.buf.write s.wr c := rfl
@[simp] theorem State.storeCode_outstanding (cap : Nat) (c : PulseCode) : (s.storeCode cap c).outstanding = s.outstanding := rfl
@[simp] theorem State.storeCode_armTime (cap : Nat) (c : PulseCode) : (s.storeCode cap c).armTime = s.armTime := rfl
@[simp] theorem State.storeCode_suppress (cap : Nat) (c : PulseCode) : (s.storeCode cap c).suppress = s.suppress := rfl
@[simp] theorem State.storeCode_configured (cap : Nat) (c : PulseCode) : (s.storeCode cap c).configured = s.configured := rfl
@[simp] theorem State.storeCode_model (cap : Nat) (c : PulseCode) : (s.storeCode cap c).model = s.model := rfl
@[simp] theorem State.storeCode_pin (cap : Nat) (c : PulseCode) : (s.storeCode cap c).pin = s.pin := rfl
@[simp] theorem State.storeCode_pinmode (cap : Nat) (c : PulseCode) : (s.storeCode cap c).pinmode = s.pinmode := rfl
@[simp] theorem State.storeCode_hc (cap : Nat) (c : PulseCode) : (s.storeCode cap c).hc = s.hc := rfl
@[simp] theorem State.storeCode_ac (cap : Nat) (c : PulseCode) : (s.storeCode cap c).ac = s.ac := rfl
@[simp] theorem State.storeCode_bits (cap : Nat) (c : PulseCode) : (s.storeCode cap c).bits = s.bits := rfl
@[simp] theorem State.storeCode_blen (cap : Nat) (c : PulseCode) : (s.storeCode cap c).blen = s.blen := rfl
@[simp] theorem State.storeCode_inverted (cap : Nat) (c : PulseCode) : (s.storeCode cap c).inverted = s.inverted := rfl
@[simp] theorem State.storeCode_syncPos (cap : Nat) (c : PulseCode) : (s.storeCode cap c).syncPos = s.syncPos := rfl
@[simp] theorem State.storeCode_start (cap : Nat) (c : PulseCode) : (s.storeCode cap c).start = s.start := rfl
@[simp] theorem State.storeCode_frame (cap : Nat) (c : PulseCode) : (s.storeCode cap c).frame = s.frame := rfl
@[simp] theorem State.storeCode_valid (cap : Nat) (c : PulseCode) : (s.storeCode cap c).valid = s.valid := rfl
@[simp] theorem State.storeCode_status (cap : Nat) (c : PulseCode) : (s.storeCode cap c).status = s.status := rfl
@[simp] theorem State.storeCode_res (cap : Nat) (c : PulseCode) : (s.storeCode cap c).res = s.res := rfl
@[simp] theorem State.storeCode_par (cap : Nat) (c : PulseCode) : (s.storeCode cap c).par = s.par := rfl
@[simp] theorem State.storeCode_pos (cap : Nat) (c : PulseCode) : (s.storeCode cap c).pos = s.pos := rfl
@[simp] theorem State.storeCode_result (cap : Nat) (c : PulseCode) : (s.storeCode cap c).result = s.result := rfl
@[simp] theorem State.storeCode_free (cap : Nat) (c : PulseCode) : (s.storeCode cap c).free = s.free := rfl
@[simp] theorem State.storeCode_inbox (cap : Nat) (c : PulseCode) : (s.storeCode cap c).inbox = s.inbox := rfl
@[simp] theorem State.storeCode_outs (cap : Nat) (c : PulseCode) : (s.storeCode cap c).outs = s.outs := rfl
@[simp] theorem State.storeCode_profile (cap : Nat) (c : PulseCode) : (s.storeCode cap c).profile = s.profile := rfl
@[simp] theorem State.storeCode_readBit (cap : Nat) (c : PulseCode) : (s.storeCode cap c).readBit = s.readBit := rfl
@[simp] theorem State.storeCode_readFrame (cap : Nat) (c : PulseCode) : (s.storeCode cap c).readFrame = s.readFrame := rfl

/-! ### configure -/

@[simp] theorem State.configure_lastEdgeTime (m : BitVec 2) (pin : Nat) (pm : BitVec 2) : (s.configure m pin pm).lastEdgeTime = s.lastEdgeTime := rfl
@[simp] theorem State.configure_armed (m : BitVec 2) (pin : Nat) (pm : BitVec 2) : (s.configure m pin pm).armed = s.armed := rfl
@[simp] theorem State.configure_wr (m : BitVec 2) (pin : Nat) (pm : BitVec 2) : (s.configure m pin pm).wr = 0 := rfl
@[simp] theorem State.configure_buf (m : BitVec 2) (pin : Nat) (pm : BitVec 2) : (s.configure m pin pm).buf = s.buf := rfl
@[simp] theorem State.configure_outstanding (m : BitVec 2) (pin : Nat) (pm : BitVec 2) : (s.configure m pin pm).outstanding = false := rfl
@[simp] theorem State.configure_armTime (m : BitVec 2) (pin : Nat) (pm : BitVec 2) : (s.configure m pin pm).armTime = s.armTime := rfl
@[simp] theorem State.configure_suppress (m : BitVec 2) (pin : Nat) (pm : BitVec 2) : (s.configure m pin pm).suppress = false := rfl
@[simp] theorem State.configure_configured (m : BitVec 2) (pin : Nat) (pm : BitVec 2) : (s.configure m pin pm).configured = true := rfl
@[simp] theorem State.configure_model (m : BitVec 2) (pin : Nat) (pm : BitVec 2) : (s.configure m pin pm).model = m := rfl
@[simp] theorem State.configure_pin (m : BitVec 2) (pin : Nat) (pm : BitVec 2) : (s.configure m pin pm).pin = pin := rfl
@[simp] theorem State.configure_pinmode (m : BitVec 2) (pin : Nat) (pm : BitVec 2) : (s.configure m pin pm).pinmode = pm := rfl
@[simp] theorem State.configure_hc (m : BitVec 2) (pin : Nat) (pm : BitVec 2) : (s.configure m pin pm).hc = s.hc := rfl
@[simp] theorem State.configure_ac (m : BitVec 2) (pin : Nat) (pm : BitVec 2) : (s.configure m pin pm).ac = s.ac := rfl
@[simp] theorem State.configure_bits (m : BitVec 2) (pin : Nat) (pm : BitVec 2) : (s.configure m pin pm).bits = s.bits := rfl
@[simp] theorem State.configure_blen (m : BitVec 2) (pin : Nat) (pm : BitVec 2) : (s.configure m pin pm).blen = s.blen := rfl
@[simp] theorem State.configure_inverted (m : BitVec 2) (pin : Nat) (pm : BitVec 2) : (s.configure m pin pm).inverted = s.inverted := rfl
@[simp] theorem State.configure_syncPos (m : BitVec 2) (pin : Nat) (pm : BitVec 2) : (s.configure m pin pm).syncPos = s.syncPos := rfl
@[simp] theorem State.configure_start (m : BitVec 2) (pin : Nat) (pm : BitVec 2) : (s.configure m pin pm).start = s.start := rfl
@[simp] theorem State.configure_frame (m : BitVec 2) (pin : Nat) (pm : BitVec 2) : (s.configure m pin pm).frame = s.frame := rfl
@[simp] theorem State.configure_valid (m : BitVec 2) (pin : Nat) (pm : BitVec 2) : (s.configure m pin pm).valid = false := rfl
@[simp] theorem State.configure_status (m : BitVec 2) (pin : Nat) (pm : BitVec 2) : (s.configure m pin pm).status = .none := rfl
@[simp] theorem State.configure_res (m : BitVec 2) (pin : Nat) (pm : BitVec 2) : (s.configure m pin pm).res = .idle := rfl
@[simp] theorem State.configure_par (m : BitVec 2) (pin : Nat) (pm : BitVec 2) : (s.configure m pin pm).par = s.par := rfl
@[simp] theorem State.configure_pos (m : BitVec 2) (pin : Nat) (pm : BitVec 2) : (s.configure m pin pm).pos = s.pos := rfl
@[simp] theorem State.configure_result (m : BitVec 2) (pin : Nat) (pm : BitVec 2) : (s.configure m pin pm).result = s.result := rfl
@[simp] theorem State.configure_free (m : BitVec 2) (pin : Nat) (pm : BitVec 2) : (s.configure m pin pm).free = s.free := rfl
@[simp] theorem State.configure_inbox (m : BitVec 2) (pin : Nat) (pm : BitVec 2) : (s.configure m pin pm).inbox = s.inbox := rfl
@[simp] theorem State.configure_outs (m : BitVec 2) (pin : Nat) (pm : BitVec 2) : (s.configure m pin pm).outs = s.outs := rfl
@[simp] theorem State.configure_readCode (m : BitVec 2) (pin : Nat) (pm : BitVec 2) : (s.configure m pin pm).readCode = s.readCode := rfl
@[simp] theorem State.configure_readBit (m : BitVec 2) (pin : Nat) (pm : BitVec 2) : (s.configure m pin pm).readBit = s.readBit := rfl
@[simp] theorem State.configure_readFrame (m : BitVec 2) (pin : Nat) (pm : BitVec 2) : (s.configure m pin pm).readFrame = s.readFrame := rfl

/-! ### committed -/

@[simp] theorem State.committed_lastEdgeTime : (s.committed).lastEdgeTime = s.lastEdgeTime := rfl
@[simp] theorem State.committed_armed : (s.committed).armed = s.armed := rfl
@[simp] theorem State.committed_wr : (s.committed).wr = s.wr := rfl
@[simp] theorem State.committed_buf : (s.committed).buf = s.buf := rfl
@[simp] theorem State.committed_outstanding : (s.committed).outstanding = s.outstanding := rfl
@[simp] theorem State.committed_armTime : (s.committed).armTime = s.armTime := rfl
@[simp] theorem State.committed_suppress : (s.committed).suppress = s.suppress := rfl
@[simp] theorem State.committed_configured : (s.committed).configured = s.configured := rfl
@[simp] theorem State.committed_model : (s.committed).model = s.model := rfl
@[simp] theorem State.committed_pin : (s.committed).pin = s.pin := rfl
@[simp] theorem State.committed_pinmode : (s.committed).pinmode = s.pinmode := rfl
@[simp] theorem State.committed_hc : (s.committed).hc = s.hc := rfl
@[simp] theorem State.committed_ac : (s.committed).ac = s.ac := rfl
@[simp] theorem State.committed_bits : (s.committed).bits = s.bits := rfl
@[simp] theorem State.committed_blen : (s.committed).blen = s.blen := rfl
@[simp] theorem State.committed_inverted : (s.committed).inverted = s.inverted := rfl
@[simp] theorem State.committed_syncPos : (s.committed).syncPos = s.syncPos := rfl
@[simp] theorem State.committed_start : (s.committed).start = s.start := rfl
@[simp] theorem State.committed_frame : (s.committed).frame = s.frame := rfl
@[simp] theorem State.committed_valid : (s.committed).valid = true := rfl
@[simp] theorem State.committed_status : (s.committed).status = .none := rfl
@[simp] theorem State.committed_res : (s.committed).res = .decoded := rfl
@[simp] theorem State.committed_par : (s.committed).par = s.par := rfl
@[simp] theorem State.committed_pos : (s.committed).pos = s.pos := rfl
@[simp] theorem State.committed_result : (s.committed).result = none := rfl
@[simp] theorem State.committed_free : (s.committed).free = s.free := rfl
@[simp] theorem State.committed_inbox : (s.committed).inbox = s.inbox := rfl
@[simp] theorem State.committed_outs : (s.committed).outs = s.outs := rfl
@[simp] theorem State.committed_profile : (s.committed).profile = s.profile := rfl
@[simp] theorem State.committed_readCode : (s.committed).readCode = s.readCode := rfl
@[simp] theorem State.committed_readBit : (s.committed).readBit = s.readBit := rfl
@[simp] theorem State.committed_readFrame : (s.committed).readFrame = s.readFrame := rfl

/-! ### beginAssemble -/

@[simp] theorem State.beginAssemble_lastEdgeTime : (s.beginAssemble).lastEdgeTime = s.lastEdgeTime := rfl
@[simp] theorem State.beginAssemble_armed : (s.beginAssemble).armed = s.armed := rfl
@[simp] theorem State.beginAssemble_wr : (s.beginAssemble).wr = s.wr := rfl
@[simp] theorem State.beginAssemble_buf : (s.beginAssemble).buf = s.buf := rfl
@[simp] theorem State.beginAssemble_outstanding : (s.beginAssemble).outstanding = s.outstanding := rfl
@[simp] theorem State.beginAssemble_armTime : (s.beginAssemble).armTime = s.armTime := rfl
@[simp] theorem State.beginAssemble_suppress : (s.beginAssemble).suppress = s.suppress := rfl
@[simp] theorem State.beginAssemble_configured : (s.beginAssemble).configured = s.configured := rfl
@[simp] theorem State.beginAssemble_model : (s.beginAssemble).model = s.model := rfl
@[simp] theorem State.beginAssemble_pin : (s.beginAssemble).pin = s.pin := rfl
@[simp] theorem State.beginAssemble_pinmode : (s.beginAssemble).pinmode = s.pinmode := rfl
@[simp] theorem State.beginAssemble_hc : (s.beginAssemble).hc = 0 := rfl
@[simp] theorem State.beginAssemble_ac : (s.beginAssemble).ac = 0 := rfl
@[simp] theorem State.beginAssemble_bits : (s.beginAssemble).bits = s.bits := rfl
@[simp] theorem State.beginAssemble_blen : (s.beginAssemble).blen = s.blen := rfl
@[simp] theorem State.beginAssemble_inverted : (s.beginAssemble).inverted = s.inverted := rfl
@[simp] theorem State.beginAssemble_syncPos : (s.beginAssemble).syncPos = s.syncPos := rfl
@[simp] theorem State.beginAssemble_start : (s.beginAssemble).start = s.start := rfl
@[simp] theorem State.beginAssemble_frame : (s.beginAssemble).frame = s.frame := rfl
@[simp] theorem State.beginAssemble_valid : (s.beginAssemble).valid = s.valid := rfl
@[simp] theorem State.beginAssemble_status : (s.beginAssemble).status = s.status := rfl
@[simp] theorem State.beginAssemble_res : (s.beginAssemble).res = s.res := rfl
@[simp] theorem State.beginAssemble_par : (s.beginAssemble).par = s.par := rfl
@[simp] theorem State.beginAssemble_pos : (s.beginAssemble).pos = 0 := rfl
@[simp] theorem State.beginAssemble_result : (s.beginAssemble).result = none := rfl
@[simp] theorem State.beginAssemble_free : (s.beginAssemble).free = s.free := rfl
@[simp] theorem State.beginAssemble_inbox : (s.beginAssemble).inbox = s.inbox := rfl
@[simp] theorem State.beginAssemble_outs : (s.beginAssemble).outs = s.outs := rfl
@[simp] theorem State.beginAssemble_profile : (s.beginAssemble).profile = s.profile := rfl
@[simp] theorem State.beginAssemble_readCode : (s.beginAssemble).readCode = s.readCode := rfl
@[simp] theorem State.beginAssemble_readBit : (s.beginAssemble).readBit = s.readBit := rfl
@[simp] theorem State.beginAssemble_readFrame : (s.beginAssemble).readFrame = s.readFrame := rfl

/-! ### invert -/

@[simp] theorem State.invert_lastEdgeTime : (s.invert).lastEdgeTime = s.lastEdgeTime := rfl
@[simp] theorem State.invert_armed : (s.invert).armed = s.armed := rfl
@[simp] theorem State.invert_wr : (s.invert).wr = s.wr := rfl
@[simp] theorem State.invert_buf : (s.invert).buf = s.buf := rfl
@[simp] theorem State.invert_outstanding : (s.invert).outstanding = s.outstanding := rfl
@[simp] theorem State.invert_armTime : (s.invert).armTime = s.armTime := rfl
@[simp] theorem State.invert_suppress : (s.invert).suppress = s.suppress := rfl
@[simp] theorem State.invert_configured : (s.invert).configured = s.configured := rfl
@[simp] theorem State.invert_model : (s.invert).model = s.model := rfl
@[simp] theorem State.invert_pin : (s.invert).pin = s.pin := rfl
@[simp] theorem State.invert_pinmode : (s.invert).pinmode = s.pinmode := rfl
@[simp] theorem State.invert_hc : (s.invert).hc = s.hc := rfl
@[simp] theorem State.invert_ac : (s.invert).ac = s.ac := rfl
@[simp] theorem State.invert_bits : (s.invert).bits = flipBits s.readBit s.blen s.bits := rfl
@[simp] theorem State.invert_blen : (s.invert).blen = s.blen := rfl
@[simp] theorem State.invert_inverted : (s.invert).inverted = s.inverted := rfl
@[simp] theorem State.invert_syncPos : (s.invert).syncPos = s.syncPos := rfl
@[simp] theorem State.invert_start : (s.invert).start = s.start := rfl
@[simp] theorem State.invert_frame : (s.invert).frame = s.frame := rfl
@[simp] theorem State.invert_valid : (s.invert).valid = s.valid := rfl
@[simp] theorem State.invert_status : (s.invert).status = s.status := rfl
@[simp] theorem State.invert_res : (s.invert).res = s.res := rfl
@[simp] theorem State.invert_par : (s.invert).par = s.par := rfl
@[simp] theorem State.invert_pos : (s.invert).pos = s.pos := rfl
@[simp] theorem State.invert_result : (s.invert).result = s.result := rfl
@[simp] theorem State.invert_free : (s.invert).free = s.free := rfl
@[simp] theorem State.invert_inbox : (s.invert).inbox = s.inbox := rfl
@[simp] theorem State.invert_outs : (s.invert).outs = s.outs := rfl
@[simp] theorem State.invert_profile : (s.invert).profile = s.profile := rfl
@[simp] theorem State.invert_readCode : (s.invert).readCode = s.readCode := rfl
@[simp] theorem State.invert_readFrame : (s.invert).readFrame = s.readFrame := rfl

/-! ### locate -/

@[simp] theorem State.locate_lastEdgeTime (p : DeviceProfile) (inv : Bool) (q : Nat) : (s.locate p inv q).lastEdgeTime = s.lastEdgeTime := rfl
@[simp] theorem State.locate_armed (p : DeviceProfile) (inv : Bool) (q : Nat) : (s.locate p inv q).armed = s.armed := rfl
@[simp] theorem State.locate_wr (p : DeviceProfile) (inv : Bool) (q : Nat) : (s.locate p inv q).wr = s.wr := rfl
@[simp] theorem State.locate_buf (p : DeviceProfile) (inv : Bool) (q : Nat) : (s.locate p inv q).buf = s.buf := rfl
@[simp] theorem State.locate_outstanding (p : DeviceProfile) (inv : Bool) (q : Nat) : (s.locate p inv q).outstanding = s.outstanding := rfl
@[simp] theorem State.locate_armTime (p : DeviceProfile) (inv : Bool) (q : Nat) : (s.locate p inv q).armTime = s.armTime := rfl
@[simp] theorem State.locate_suppress (p : DeviceProfile) (inv : Bool) (q : Nat) : (s.locate p inv q).suppress = s.suppress := rfl
@[simp] theorem State.locate_configured (p : DeviceProfile) (inv : Bool) (q : Nat) : (s.locate p inv q).configured = s.configured := rfl
@[simp] theorem State.locate_model (p : DeviceProfile) (inv : Bool) (q : Nat) : (s.locate p inv q).model = s.model := rfl
@[simp] theorem State.locate_pin (p : DeviceProfile) (inv : Bool) (q : Nat) : (s.locate p inv q).pin = s.pin := rfl
@[simp] theorem State.locate_pinmode (p : DeviceProfile) (inv : Bool) (q : Nat) : (s.locate p inv q).pinmode = s.pinmode := rfl
@[simp] theorem State.locate_hc (p : DeviceProfile) (inv : Bool) (q : Nat) : (s.locate p inv q).hc = s.hc := rfl
@[simp] theorem State.locate_ac (p : DeviceProfile) (inv : Bool) (q : Nat) : (s.locate p inv q).ac = s.ac := rfl
@[simp] theorem State.locate_bits (p : DeviceProfile) (inv : Bool) (q : Nat) : (s.locate p inv q).bits = s.bits := rfl
@[simp] theorem State.locate_blen (p : DeviceProfile) (inv : Bool) (q : Nat) : (s.locate p inv q).blen = s.blen := rfl
@[simp] theorem State.locate_inverted (p : DeviceProfile) (inv : Bool) (q : Nat) : (s.locate p inv q).inverted = inv := rfl
@[simp] theorem State.locate_syncPos (p : DeviceProfile) (inv : Bool) (q : Nat) : (s.locate p inv q).syncPos = q := rfl
@[simp] theorem State.locate_frame (p : DeviceProfile) (inv : Bool) (q : Nat) : (s.locate p inv q).frame = s.frame := rfl
@[simp] theorem State.locate_valid (p : DeviceProfile) (inv : Bool) (q : Nat) : (s.locate p inv q).valid = s.valid := rfl
@[simp] theorem State.locate_status (p : DeviceProfile) (inv : Bool) (q : Nat) : (s.locate p inv q).status = s.status := rfl
@[simp] theorem State.locate_res (p : DeviceProfile) (inv : Bool) (q : Nat) : (s.locate p inv q).res = s.res := rfl
@[simp] theorem State.locate_par (p : DeviceProfile) (inv : Bool) (q : Nat) : (s.locate p inv q).par = s.par := rfl
@[simp] theorem State.locate_pos (p : DeviceProfile) (inv : Bool) (q : Nat) : (s.locate p inv q).pos = s.pos := rfl
@[simp] theorem State.locate_free (p : DeviceProfile) (inv : Bool) (q : Nat) : (s.locate p inv q).free = s.free := rfl
@[simp] theorem State.locate_inbox (p : DeviceProfile) (inv : Bool) (q : Nat) : (s.locate p inv q).inbox = s.inbox := rfl
@[simp] theorem State.locate_outs (p : DeviceProfile) (inv : Bool) (q : Nat) : (s.locate p inv q).outs = s.outs := rfl
@[simp] theorem State.locate_profile (p : DeviceProfile) (inv : Bool) (q : Nat) : (s.locate p inv q).profile = s.profile := rfl
@[simp] theorem State.locate_readCode (p : DeviceProfile) (inv : Bool) (q : Nat) : (s.locate p inv q).readCode = s.readCode := rfl
@[simp] theorem State.locate_readBit (p : DeviceProfile) (inv : Bool) (q : Nat) : (s.locate p inv q).readBit = s.readBit := rfl
@[simp] theorem State.locate_readFrame (p : DeviceProfile) (inv : Bool) (q : Nat) : (s.locate p inv q).readFrame = s.readFrame := rfl

/-! ### trimmed -/

@[simp] theorem State.trimmed_lastEdgeTime (p : DeviceProfile) : (s.trimmed p).lastEdgeTime = s.lastEdgeTime := rfl
@[simp] theorem State.trimmed_armed (p : DeviceProfile) : (s.trimmed p).armed = s.armed := rfl
@[simp] theorem State.trimmed_wr (p : DeviceProfile) : (s.trimmed p).wr = s.wr := rfl
@[simp] theorem State.trimmed_buf (p : DeviceProfile) : (s.trimmed p).buf = s.buf := rfl
@[simp] theorem State.trimmed_outstanding (p : DeviceProfile) : (s.trimmed p).outstanding = s.outstanding := rfl
@[simp] theorem State.trimmed_armTime (p : DeviceProfile) : (s.trimmed p).armTime = s.armTime := rfl
@[simp] theorem State.trimmed_suppress (p : DeviceProfile) : (s.trimmed p).suppress = s.suppress := rfl
@[simp] theorem State.trimmed_configured (p : DeviceProfile) : (s.trimmed p).configured = s.configured := rfl
@[simp] theorem State.trimmed_model (p : DeviceProfile) : (s.trimmed p).model = s.model := rfl
@[simp] theorem State.trimmed_pin (p : DeviceProfile) : (s.trimmed p).pin = s.pin := rfl
@[simp] theorem State.trimmed_pinmode (p : DeviceProfile) : (s.trimmed p).pinmode = s.pinmode := rfl
@[simp] theorem State.trimmed_hc (p : DeviceProfile) : (s.trimmed p).hc = s.hc := rfl
@[simp] theorem State.trimmed_ac (p : DeviceProfile) : (s.trimmed p).ac = s.ac := rfl
@[simp] theorem State.trimmed_bits (p : DeviceProfile) : (s.trimmed p).bits = s.bits := rfl
@[simp] theorem State.trimmed_blen (p : DeviceProfile) : (s.trimmed p).blen = s.blen := rfl
@[simp] theorem State.trimmed_inverted (p : DeviceProfile) : (s.trimmed p).inverted = s.inverted := rfl
@[simp] theorem State.trimmed_syncPos (p : DeviceProfile) : (s.trimmed p).syncPos = s.syncPos := rfl
@[simp] theorem State.trimmed_start (p : DeviceProfile) : (s.trimmed p).start = s.start := rfl
@[simp] theorem State.trimmed_frame (p : DeviceProfile) : (s.trimmed p).frame = trimBytes s.readBit s.start p.len s.frame := rfl
@[simp] theorem State.trimmed_valid (p : DeviceProfile) : (s.trimmed p).valid = s.valid := rfl
@[simp] theorem State.trimmed_status (p : DeviceProfile) : (s.trimmed p).status = s.status := rfl
@[simp] theorem State.trimmed_res (p : DeviceProfile) : (s.trimmed p).res = s.res := rfl
@[simp] theorem State.trimmed_par (p : DeviceProfile) : (s.trimmed p).par = s.par := rfl
@[simp] theorem State.trimmed_pos (p : DeviceProfile) : (s.trimmed p).pos = s.pos := rfl
@[simp] theorem State.trimmed_result (p : DeviceProfile) : (s.trimmed p).result = none := rfl
@[simp] theorem State.trimmed_free (p : DeviceProfile) : (s.trimmed p).free = s.free := rfl
@[simp] theorem State.trimmed_inbox (p : DeviceProfile) : (s.trimmed p).inbox = s.inbox := rfl
@[simp] theorem State.trimmed_outs (p : DeviceProfile) : (s.trimmed p).outs = s.outs := rfl
@[simp] theorem State.trimmed_profile (p : DeviceProfile) : (s.trimmed p).profile = s.profile := rfl
@[simp] theorem State.trimmed_readCode (p : DeviceProfile) : (s.trimmed p).readCode = s.readCode := rfl
@[simp] theorem State.trimmed_readBit (p : DeviceProfile) : (s.trimmed p).readBit = s.readBit := rfl

end Sys2Proof.Machine
end

