-- ==== Sys2Proof/Laws/Ops.lean ====
section
/-!
SUPPORT. One lemma per shared operation that says everything it can answer; later proofs cite these instead of unfolding.
-/

namespace Sys2Proof.Machine

/-! ### Sequencing -/

theorem andThen_eq_next {σ τ : Type} {o : Host.Outcome σ Fault Refusal} {f : σ → Host.Outcome τ Fault Refusal}
    {t : τ} : andThen o f = .next t ↔ ∃ s, o = .next s ∧ f s = .next t := by
  cases o <;> simp [andThen]

theorem andThen_eq_fault {σ τ : Type} {o : Host.Outcome σ Fault Refusal} {f : σ → Host.Outcome τ Fault Refusal}
    {r : Fault} : andThen o f = .fault r ↔ o = .fault r ∨ ∃ s, o = .next s ∧ f s = .fault r := by
  cases o <;> simp [andThen]

theorem andThen_eq_refused {σ τ : Type} {o : Host.Outcome σ Fault Refusal} {f : σ → Host.Outcome τ Fault Refusal}
    {r : Refusal} : andThen o f = .refused r ↔ o = .refused r ∨ ∃ s, o = .next s ∧ f s = .refused r := by
  cases o <;> simp [andThen]

@[simp] theorem andThen_next {σ τ : Type} (s : σ) (f : σ → Host.Outcome τ Fault Refusal) :
    andThen (.next s) f = f s := rfl

theorem withProfile_of_configured {τ : Type} {s : State} {k : DeviceProfile → Host.Outcome τ Fault Refusal}
    (h : s.configured = true) : withProfile s k = k s.profile := by
  simp [withProfile, h]

theorem withProfile_of_unconfigured {τ : Type} {s : State} {k : DeviceProfile → Host.Outcome τ Fault Refusal}
    (h : s.configured = false) : withProfile s k = .refused .notConfigured := by
  simp [withProfile, h]

theorem withProfile_eq_next {τ : Type} {s : State} {k : DeviceProfile → Host.Outcome τ Fault Refusal} {t : τ} :
    withProfile s k = .next t ↔ s.configured = true ∧ k s.profile = .next t := by
  unfold withProfile
  split <;> simp [*]

theorem withProfile_eq_fault {τ : Type} {s : State} {k : DeviceProfile → Host.Outcome τ Fault Refusal} {f : Fault} :
    withProfile s k = .fault f ↔ s.configured = true ∧ k s.profile = .fault f := by
  unfold withProfile
  split <;> simp [*]

/-! ### EMIT and ANOM -/

/-- EMIT answers next exactly inside the bit space (41_frame_assembler.md R148). -/
theorem emit_eq_next {b : Bool} {s t : State} :
    emit b s = .next t ↔ s.configured = true ∧ s.hc < 2 * s.profile.cap ∧ t = s.emitted b := by
  unfold emit
  rw [withProfile_eq_next]
  constructor
  · rintro ⟨hc, h⟩
    split at h
    · cases h
      exact ⟨hc, ‹_›, rfl⟩
    · cases h
  · rintro ⟨hc, h, rfl⟩
    simp [hc, h]

/-- EMIT faults exactly outside the bit space. -/
theorem emit_eq_fault {b : Bool} {s : State} {f : Fault} :
    emit b s = .fault f ↔ s.configured = true ∧ 2 * s.profile.cap ≤ s.hc ∧ f = .bitIndexOutOfRange := by
  unfold emit
  rw [withProfile_eq_fault]
  constructor
  · rintro ⟨hc, h⟩
    split at h
    · cases h
    · cases h
      exact ⟨hc, by omega, rfl⟩
  · rintro ⟨hc, h, rfl⟩
    simp [hc, h]

/-- EMIT keeps the odd-numbered half-bits, at half their number, and leaves every other element of the bit space. -/
theorem emitted_readBit (s : State) (b : Bool) (k : Nat) :
    (s.emitted b).readBit k = if s.hc = 2 * k + 1 then b else s.readBit k := by
  unfold State.readBit
  rw [State.emitted_bits]
  split
  · rw [Memory.find_write]
    split
    · rw [if_pos (by omega)]
      rfl
    · rw [if_neg (by omega)]
  · rw [if_neg (by omega)]

/-- Everything ANOM can answer (41_frame_assembler.md R147, R149). -/
theorem anom_cases (s : State) :
    (s.pos = 0 ∧ anom s = .next s.nextSlot) ∨
    (s.pos ≠ 0 ∧ s.ac < 4 ∧ anom s = .next s.countAnomaly.nextSlot) ∨
    (s.pos ≠ 0 ∧ 4 ≤ s.ac ∧ anom s = .next (s.countAnomaly.withResult (some .anomalyOverrun))) := by
  unfold anom
  split
  · exact .inl ⟨‹_›, rfl⟩
  · split
    · rename_i h
      have : 5 ≤ s.ac + 1 := h
      exact .inr (.inr ⟨‹_›, by omega, rfl⟩)
    · rename_i h
      have : ¬ 5 ≤ s.ac + 1 := h
      exact .inr (.inl ⟨‹_›, by omega, rfl⟩)

/-! ### START -/

/-- Everything START can answer (46_sequencer.md R221). -/
theorem startOp_cases (now : Time) (s : State) :
    (s.configured = false ∧ startOp now s = .refused .notConfigured) ∨
    (s.configured = true ∧ (s.suppress = true ∨ s.armed = true) ∧ startOp now s = .next s) ∨
    (s.configured = true ∧ s.suppress = false ∧ s.armed = false ∧ startOp now s = .next (s.arm now)) := by
  unfold startOp
  cases s.configured <;> cases s.suppress <;> cases s.armed <;> simp

/-! ### The storage spaces -/

/-- The spaces of the reset state are in canonical form. -/
theorem reset_spacesWf : State.reset.spacesWf = true := rfl

/-- Storing a code changes slot `wr` only (40_edge_sampler.md R126). -/
theorem storeCode_readCode (s : State) (cap : Nat) (c : PulseCode) (i : Nat) :
    (s.storeCode cap c).readCode i = if i = s.wr then c else s.readCode i := by
  unfold State.readCode
  rw [State.storeCode_buf, Memory.find_write]
  by_cases h : i = s.wr
  · rw [if_pos h.symm, if_pos h]
    rfl
  · rw [if_neg (Ne.symm h), if_neg h]

end Sys2Proof.Machine
end

