-- ==== Sys2Proof/Laws/Assembler.lean ====
section
/-!
SUPPORT. ASSEMBLE's loop against the list function of Machine/StreamView.lean, and what a run of half-bits leaves in the
bit space (41_frame_assembler.md R140 to R150).
-/

namespace Sys2Proof.Machine

/-- The half-bits `hs` through EMIT, in order. -/
def State.emitAll (s : State) : List Bool → State
  | [] => s
  | b :: hs => State.emitAll (s.emitted b) hs

/-- What ASSEMBLE's loop may write. -/
def AsmFrame (s t : State) : Prop :=
  t = { s with hc := t.hc, ac := t.ac, bits := t.bits, pos := t.pos, result := t.result }

theorem AsmFrame.refl (s : State) : AsmFrame s s := rfl

theorem AsmFrame.trans {s t u : State} (h1 : AsmFrame s t) (h2 : AsmFrame t u) : AsmFrame s u := by
  unfold AsmFrame at *
  rw [h1] at h2
  exact h2

theorem AsmFrame.emitted (s : State) (b : Bool) : AsmFrame s (s.emitted b) := rfl
theorem AsmFrame.nextSlot (s : State) : AsmFrame s s.nextSlot := rfl
theorem AsmFrame.countAnomaly (s : State) : AsmFrame s s.countAnomaly := rfl
theorem AsmFrame.withResult (s : State) (r : Option CycleFailure) : AsmFrame s (s.withResult r) := rfl

theorem AsmFrame.configured {s t : State} (h : AsmFrame s t) : t.configured = s.configured := by rw [h]
theorem AsmFrame.profile {s t : State} (h : AsmFrame s t) : t.profile = s.profile := by rw [h]; rfl
theorem AsmFrame.readCode {s t : State} (h : AsmFrame s t) : t.readCode = s.readCode := by rw [h]; rfl
theorem AsmFrame.par {s t : State} (h : AsmFrame s t) : t.par = s.par := by rw [h]

theorem emitAll_frame (s : State) (hs : List Bool) : AsmFrame s (s.emitAll hs) := by
  induction hs generalizing s with
  | nil => exact .refl s
  | cons b hs ih => exact (AsmFrame.emitted s b).trans (ih _)

@[simp] theorem emitAll_pos (s : State) (hs : List Bool) : (s.emitAll hs).pos = s.pos := by
  induction hs generalizing s with
  | nil => rfl
  | cons b hs ih => exact ih _

@[simp] theorem emitAll_ac (s : State) (hs : List Bool) : (s.emitAll hs).ac = s.ac := by
  induction hs generalizing s with
  | nil => rfl
  | cons b hs ih => exact ih _

@[simp] theorem emitAll_hc (s : State) (hs : List Bool) : (s.emitAll hs).hc = s.hc + hs.length := by
  induction hs generalizing s with
  | nil => rfl
  | cons b hs ih =>
    simp only [State.emitAll, ih, State.emitted_hc, List.length_cons]
    omega

theorem emitted_wf {s : State} (b : Bool) (h : s.bits.wf = true) : (s.emitted b).bits.wf = true := by
  rw [State.emitted_bits]
  split
  · exact Memory.wf_write _ _ h
  · exact h

theorem emitAll_wf {s : State} (hs : List Bool) (h : s.bits.wf = true) : (s.emitAll hs).bits.wf = true := by
  induction hs generalizing s with
  | nil => exact h
  | cons b hs ih => exact ih (emitted_wf b h)

/-- The half-bits through EMIT leave what `Emitted` says. -/
theorem emitted_emitAll (s : State) (hs : List Bool) : Emitted s (s.emitAll hs) hs := by
  refine ⟨emitAll_hc s hs, ?_⟩
  induction hs generalizing s with
  | nil =>
    intro k
    rw [if_neg (by simp only [List.length_nil]; omega)]
    rfl
  | cons b hs ih =>
    intro k
    simp only [State.emitAll, ih (s.emitted b) k, emitted_readBit, State.emitted_hc, List.length_cons]
    by_cases h1 : s.hc = 2 * k + 1
    · rw [if_neg (by omega), if_pos h1, if_pos (by omega), show 2 * k + 1 - s.hc = 0 by omega]
      rfl
    · rw [if_neg h1]
      by_cases h2 : s.hc + 1 ≤ 2 * k + 1 ∧ 2 * k + 1 < s.hc + 1 + hs.length
      · rw [if_pos h2, if_pos (by omega), show 2 * k + 1 - s.hc = (2 * k + 1 - (s.hc + 1)) + 1 by omega,
          List.getD_cons_succ]
      · rw [if_neg h2, if_neg (by omega)]

theorem Emitted.trans {s t u : State} {a b : List Bool} (h1 : Emitted s t a) (h2 : Emitted t u b) :
    Emitted s u (a ++ b) := by
  obtain ⟨l1, r1⟩ := h1
  obtain ⟨l2, r2⟩ := h2
  refine ⟨by rw [l2, l1, List.length_append]; omega, fun k => ?_⟩
  rw [r2, r1, l1, List.length_append]
  by_cases hA : s.hc ≤ 2 * k + 1 ∧ 2 * k + 1 < s.hc + a.length
  · rw [if_neg (by omega), if_pos hA, if_pos (by omega), List.getD_append _ _ _ _ (by omega)]
  · rw [if_neg hA]
    by_cases hB : s.hc + a.length ≤ 2 * k + 1 ∧ 2 * k + 1 < s.hc + a.length + b.length
    · rw [if_pos hB, if_pos (by omega), List.getD_append_right _ _ _ _ (by omega)]
      congr 1
      omega
    · rw [if_neg hB, if_neg (by omega)]

theorem Emitted.congr {s t s' t' : State} {hs : List Bool} (h : Emitted s t hs) (h1 : s'.hc = s.hc)
    (h2 : s'.bits = s.bits) (h3 : t'.hc = t.hc) (h4 : t'.bits = t.bits) : Emitted s' t' hs := by
  obtain ⟨l, r⟩ := h
  refine ⟨by omega, fun k => ?_⟩
  have e1 : t'.readBit k = t.readBit k := by unfold State.readBit; rw [h4]
  have e2 : s'.readBit k = s.readBit k := by unfold State.readBit; rw [h2]
  rw [e1, e2, r, h1]

/-! ### One slot -/

theorem emit_next {s : State} (b : Bool) (hc : s.configured = true) (h : s.hc < 2 * s.profile.cap) :
    emit b s = .next (s.emitted b) := emit_eq_next.2 ⟨hc, h, rfl⟩

theorem emit_two {s : State} (a b : Bool) (hc : s.configured = true) (h : s.hc + 1 < 2 * s.profile.cap) :
    andThen (emit a s) (fun t => andThen (emit b t) fun u => .next u.nextSlot) =
      .next (s.emitAll [a, b]).nextSlot := by
  rw [emit_next a hc (by omega), andThen_next,
    emit_next b (by simpa using hc) (by simpa using h), andThen_next]
  rfl

theorem afterDw1_iff (s : State) :
    s.afterDw1 = true ↔ s.pos ≠ 0 ∧ s.readCode (s.pos - 1) = 3#4 := by
  unfold State.afterDw1
  rw [Bool.and_eq_true, decide_eq_true_eq, decide_eq_true_eq, show composeCode .dw true = 3#4 by decide]
  constructor <;> rintro ⟨h1, h2⟩ <;> exact ⟨by omega, h2⟩

/-- What a slot's code does on the machine is what the list function says. -/
theorem execSlot_view (s : State) (prev c : PulseCode) (hc : s.configured = true)
    (hprev : s.pos ≠ 0 → prev = s.readCode (s.pos - 1)) (hroom : s.hc + 1 < 2 * s.profile.cap) :
    match slotView s.par.seedEmit s.pos prev c with
    | .emits hs => hs.length ≤ 2 ∧ execSlot c s = .next (s.emitAll hs).nextSlot
    | .counts => s.pos ≠ 0 ∧ execSlot c s = anom s
    | .refuses => execSlot c s = .refused .reservedPulseCode := by
  have one : ∀ b, andThen (emit b s) (fun t => .next t.nextSlot) = .next (s.emitAll [b]).nextSlot := by
    intro b
    rw [emit_next b hc (by omega), andThen_next]
    rfl
  have zero : s.pos = 0 → anom s = .next (s.emitAll []).nextSlot := by
    intro h
    unfold anom
    rw [if_pos h]
    rfl
  unfold slotView execSlot
  cases decodeClass (codeClass c) with
  | none => rfl
  | some cls =>
    cases cls with
    | sw => exact ⟨by simp, one _⟩
    | dw => exact ⟨by simp, emit_two _ _ hc hroom⟩
    | sh =>
      by_cases h : s.pos = 0
      · simp only [if_pos h]
        exact ⟨by simp, zero h⟩
      · simp only [if_neg h]
        exact ⟨h, rfl⟩
    | bt =>
      by_cases h : s.pos = 0
      · simp only [if_pos h]
        exact ⟨by simp, zero h⟩
      · simp only [if_neg h]
        exact ⟨h, rfl⟩
    | ld =>
      by_cases h : s.pos = 0
      · simp only [if_pos h]
        exact ⟨by simp, zero h⟩
      · simp only [if_neg h]
        exact ⟨h, rfl⟩
    | lt =>
      simp only [execLt]
      by_cases hm : s.pos ≠ 0 ∧ prev = 3#4
      · have ha : s.afterDw1 = true := by
          rw [afterDw1_iff]
          exact ⟨hm.1, by rw [← hprev hm.1]; exact hm.2⟩
        simp only [if_pos hm, ha, if_true]
        exact ⟨by simp, emit_two _ _ hc hroom⟩
      · have ha : ¬ s.afterDw1 = true := by
          rw [afterDw1_iff]
          rintro ⟨h1, h2⟩
          exact hm ⟨h1, by rw [hprev h1]; exact h2⟩
        simp only [if_neg hm, if_neg ha]
        by_cases h : s.pos = 0
        · simp only [if_pos h]
          cases s.par.seedEmit with
          | true => exact ⟨by simp, one _⟩
          | false => exact ⟨by simp, rfl⟩
        · simp only [if_neg h]
          exact ⟨h, trivial⟩

/-! ### The loop -/

/-- The half-bits, the count, the abort and the refusal of ASSEMBLE's loop are the list function's. -/
theorem assembleLoop_view (n : Nat) (s : State) (prev : PulseCode) (hc : s.configured = true)
    (hprev : s.pos ≠ 0 → prev = s.readCode (s.pos - 1)) (hbound : s.hc ≤ 2 * s.pos)
    (hroom : s.pos + n ≤ s.profile.cap) (hac : s.ac ≤ 4) (hres : s.result = none) :
    match streamView s.par.seedEmit s.pos prev s.ac ((List.range' s.pos n).map s.readCode) with
    | .done hs k =>
      ∃ t, assembleLoop n s = .next t ∧ t.result = none ∧ t.ac = k ∧ k ≤ 4 ∧ Emitted s t hs ∧ AsmFrame s t ∧
        t.hc ≤ 2 * (s.pos + n) ∧ (s.bits.wf = true → t.bits.wf = true)
    | .overrun =>
      ∃ t, assembleLoop n s = .next t ∧ t.result = some .anomalyOverrun ∧ t.ac = 5 ∧ AsmFrame s t ∧
        t.hc ≤ 2 * s.profile.cap
    | .reserved => assembleLoop n s = .refused .reservedPulseCode := by
  induction n generalizing s prev with
  | zero =>
    exact ⟨s, rfl, hres, rfl, hac, emitted_emitAll s [], .refl s, by omega, id⟩
  | succ n ih =>
    have hslot := execSlot_view s prev (s.readCode s.pos) hc hprev (by omega)
    rw [List.range'_succ, List.map_cons]
    simp only [streamView, assembleLoop]
    cases hv : slotView s.par.seedEmit s.pos prev (s.readCode s.pos) with
    | refuses =>
      rw [hv] at hslot
      simp only at hslot ⊢
      rw [hslot]
      rfl
    | emits hs =>
      rw [hv] at hslot
      simp only at hslot ⊢
      obtain ⟨hlen, he⟩ := hslot
      have hf : AsmFrame s (s.emitAll hs).nextSlot := (emitAll_frame s hs).trans (.nextSlot _)
      have hi := ih (s.emitAll hs).nextSlot (s.readCode s.pos) (by rw [hf.configured]; exact hc)
        (by intro _; rw [hf.readCode]; simp)
        (by simp only [State.nextSlot_hc, emitAll_hc, State.nextSlot_pos, emitAll_pos]; omega)
        (by rw [hf.profile]; simp only [State.nextSlot_pos, emitAll_pos]; omega)
        (by simpa using hac) rfl
      rw [hf.par, hf.readCode] at hi
      simp only [State.nextSlot_pos, emitAll_pos, State.nextSlot_ac, emitAll_ac] at hi
      rw [he, andThen_next]
      simp only [State.nextSlot_result]
      cases hw : streamView s.par.seedEmit (s.pos + 1) (s.readCode s.pos) s.ac
          (List.map s.readCode (List.range' (s.pos + 1) n)) with
      | done rest k =>
        rw [hw] at hi
        obtain ⟨t, h1, h2, h3, h4, h5, h6, h7, h8⟩ := hi
        refine ⟨t, h1, h2, h3, h4, ?_, hf.trans h6, by omega, fun h => h8 (emitAll_wf hs h)⟩
        exact (emitted_emitAll s hs).trans (h5.congr rfl rfl rfl rfl)
      | overrun =>
        rw [hw] at hi
        obtain ⟨t, h1, h2, h3, h4, h5⟩ := hi
        exact ⟨t, h1, h2, h3, hf.trans h4, by rw [← hf.profile]; exact h5⟩
      | reserved =>
        rw [hw] at hi
        exact hi
    | counts =>
      rw [hv] at hslot
      simp only at hslot ⊢
      obtain ⟨hpos, he⟩ := hslot
      rw [he]
      rcases anom_cases s with ⟨h0, _⟩ | ⟨_, hlt, ha⟩ | ⟨_, hge, ha⟩
      · exact absurd h0 hpos
      · rw [ha, andThen_next, if_neg (by omega)]
        have hf : AsmFrame s s.countAnomaly.nextSlot := rfl
        have hi := ih s.countAnomaly.nextSlot (s.readCode s.pos) (by simpa using hc)
          (by intro _; rw [hf.readCode]; simp)
          (by simp; omega) (by rw [hf.profile]; simp; omega) (by simp; omega) rfl
        rw [hf.par, hf.readCode] at hi
        simp only [State.nextSlot_pos, State.countAnomaly_pos, State.nextSlot_ac, State.countAnomaly_ac] at hi
        simp only [State.nextSlot_result]
        cases hw : streamView s.par.seedEmit (s.pos + 1) (s.readCode s.pos) (s.ac + 1)
            (List.map s.readCode (List.range' (s.pos + 1) n)) with
        | done rest k =>
          rw [hw] at hi
          obtain ⟨t, h1, h2, h3, h4, h5, h6, h7, h8⟩ := hi
          exact ⟨t, h1, h2, h3, h4, h5.congr rfl rfl rfl rfl, hf.trans h6, by omega, h8⟩
        | overrun =>
          rw [hw] at hi
          obtain ⟨t, h1, h2, h3, h4, h5⟩ := hi
          exact ⟨t, h1, h2, h3, hf.trans h4, by rw [← hf.profile]; exact h5⟩
        | reserved =>
          rw [hw] at hi
          exact hi
      · rw [ha, andThen_next, if_pos (by omega)]
        refine ⟨_, rfl, rfl, ?_, rfl, ?_⟩
        · simp only [State.withResult_ac, State.countAnomaly_ac]
          omega
        · simp only [State.withResult_hc, State.countAnomaly_hc]
          omega

end Sys2Proof.Machine
end

