-- ==== Sys2Proof/Laws/Trimmer.lean ====
section
/-!
SUPPORT. What TRIM writes (43_frame_trimmer.md R175) and what the checksum adds up (44_device_validator.md R186).
-/

namespace Sys2Proof.Machine

/-- Bit `m` of a packed byte is the `m`-th of its eight bits (20_memory.md R62). -/
theorem packByte_getLsbD (bit : Nat → Bool) (o : Nat) {m : Nat} (h : m < 8) :
    (packByte bit o).getLsbD m = bit (o + m) := by
  unfold packByte
  rw [BitVec.getLsbD_ofBoolListLE]
  have : m = 0 ∨ m = 1 ∨ m = 2 ∨ m = 3 ∨ m = 4 ∨ m = 5 ∨ m = 6 ∨ m = 7 := by omega
  rcases this with rfl | rfl | rfl | rfl | rfl | rfl | rfl | rfl <;> rfl

theorem find_trimBytes (bit : Nat → Bool) (start n : Nat) (m : Memory Byte) (k : Nat) :
    (trimBytes bit start n m).find k =
      if k < n then some (packByte bit (start + 10 * k + 1)) else m.find k := by
  induction n with
  | zero => simp [trimBytes]
  | succ n ih =>
    simp only [trimBytes, Memory.find_write, ih]
    by_cases h : n = k
    · subst h
      rw [if_pos rfl, if_pos (by omega)]
      rfl
    · rw [if_neg h]
      by_cases h2 : k < n
      · rw [if_pos h2, if_pos (by omega)]
      · rw [if_neg h2, if_neg (by omega)]

theorem wf_trimBytes (bit : Nat → Bool) (start n : Nat) {m : Memory Byte} (h : m.wf = true) :
    (trimBytes bit start n m).wf = true := by
  induction n with
  | zero => exact h
  | succ n ih => exact Memory.wf_write _ _ ih

theorem trimmed_readFrame (s : State) (p : DeviceProfile) (k : Nat) :
    (s.trimmed p).readFrame k =
      if k < p.len then packByte s.readBit (s.start + 10 * k + 1) else s.readFrame k := by
  have h : (s.trimmed p).readFrame k = ((s.trimmed p).frame.find k).getD (Config.unwrittenByte k) := rfl
  rw [h, State.trimmed_frame, find_trimBytes]
  split <;> rfl

/-- The truncated sum is the sum modulo 256 (44_device_validator.md R186). -/
theorem byteSum_toNat (f : Nat → Byte) (n : Nat) :
    (byteSum f n).toNat = ((List.range n).map fun k => (f k).toNat).sum % 256 := by
  induction n with
  | zero => rfl
  | succ n ih =>
    simp only [byteSum, BitVec.toNat_add, ih, List.range_succ, List.map_append, List.sum_append, List.map_cons,
      List.map_nil, List.sum_cons, List.sum_nil]
    omega

theorem byteSum_congr {f g : Nat → Byte} {n : Nat} (h : ∀ k, k < n → f k = g k) : byteSum f n = byteSum g n := by
  induction n with
  | zero => rfl
  | succ n ih =>
    simp only [byteSum]
    rw [ih fun k hk => h k (by omega), h n (by omega)]

end Sys2Proof.Machine
end

