-- ==== Sys2Proof/Laws/Operands.lean ====
section
/-!
SUPPORT. Operand assembly as numbers: the operand check of an event word, an interval, a PulseCode's fields, the two-byte word, the signed value, a top bit, and the
checksum with one byte changed.
-/

namespace Sys2Proof.Machine

/-- Everything the operand check of an event word can accept (46_sequencer.md R230). -/
theorem whenFits_eq_ok {W : Widths} {w : EventWord} {size : Nat} {i j : Instr} :
    whenFits W w size i = .ok j ↔ EventWord.low w < size ∧ i.wellFormed W = true ∧ i = j := by
  unfold whenFits
  by_cases h : EventWord.low w < size <;> cases hw : i.wellFormed W <;> simp [h]

/-- An interval is a number of W bits (40_edge_sampler.md R121). -/
theorem interval_lt (W : Nat) (now last : Time) : interval W now last < 2 ^ W := by
  have hp : 0 < 2 ^ W := Nat.two_pow_pos W
  have h0 := Int.emod_nonneg ((now : Int) - last) (b := ((2 ^ W : Nat) : Int)) (by omega)
  have h1 := Int.emod_lt_of_pos ((now : Int) - last) (b := ((2 ^ W : Nat) : Int)) (by omega)
  unfold interval
  omega

theorem composeCode_fields (c : PulseClass) (l : Bool) :
    codeClass (composeCode c l) = c.code ∧ codeLevel (composeCode c l) = l := by
  cases c <;> cases l <;> decide

theorem word16_toNat (f : Nat → Byte) (o : Nat) :
    (word16 f o).toNat = (f (o + 1)).toNat * 256 + (f o).toNat := by
  unfold word16
  rw [BitVec.toNat_append, ← Nat.shiftLeft_add_eq_or_of_lt (f o).isLt, Nat.shiftLeft_eq]

/-- The signed value is the low 12 bits, less 4096 when bit 15 is set (45_field_decoder.md R199). -/
theorem signedValue_eq (raw : BitVec 16) :
    signedValue raw =
      if raw.toNat < 32768 then ((raw.toNat % 4096 : Nat) : Int) else ((raw.toNat % 4096 : Nat) : Int) - 4096 := by
  have hm : raw.getLsbD 15 = decide (32768 ≤ raw.toNat) := by
    rw [BitVec.getLsbD, Nat.testBit_eq_decide_div_mod_eq, decide_eq_decide]
    have := raw.isLt
    omega
  unfold signedValue
  by_cases h : raw.toNat < 32768
  · rw [hm, if_neg (by simp only [decide_eq_true_eq]; omega), if_pos h, BitVec.extractLsb'_toNat]
    simp
  · have ho : (raw ||| 0xF000#16).toNat = 61440 + raw.toNat % 4096 := by
      have e : raw ||| 0xF000#16 = (0xF#4 ++ raw.setWidth 12 : BitVec 16) := by
        apply BitVec.eq_of_getLsbD_eq
        intro i hi
        rw [BitVec.getLsbD_or, BitVec.getLsbD_append, BitVec.getLsbD_setWidth]
        rcases (by omega : i < 12 ∨ i = 12 ∨ i = 13 ∨ i = 14 ∨ i = 15) with h | rfl | rfl | rfl | rfl
        · have hk : (0xF000#16).getLsbD i = false := by
            rcases (by omega : i = 0 ∨ i = 1 ∨ i = 2 ∨ i = 3 ∨ i = 4 ∨ i = 5 ∨ i = 6 ∨ i = 7 ∨ i = 8 ∨ i = 9 ∨
              i = 10 ∨ i = 11) with
              rfl | rfl | rfl | rfl | rfl | rfl | rfl | rfl | rfl | rfl | rfl | rfl <;> rfl
          simp [h, hk]
        all_goals simp
      rw [e, BitVec.toNat_append, ← Nat.shiftLeft_add_eq_or_of_lt (BitVec.isLt _), Nat.shiftLeft_eq,
        BitVec.toNat_setWidth]
      rfl
    rw [hm, if_pos (by simp only [decide_eq_true_eq]; omega), if_neg h, sext16, ho, if_neg (by omega)]
    omega

theorem getLsbD_seven (b : Byte) : b.getLsbD 7 = decide (128 ≤ b.toNat) := by
  rw [BitVec.getLsbD, Nat.testBit_eq_decide_div_mod_eq, decide_eq_decide]
  have := b.isLt
  omega

/-- Two byte functions that differ in one place have sums that differ as that byte does (44_device_validator.md R189). -/
theorem byteSum_sub (f g : Nat → Byte) {j n : Nat} (h : ∀ k, k ≠ j → f k = g k) (hj : j < n) :
    byteSum f n - f j = byteSum g n - g j := by
  induction n with
  | zero => omega
  | succ n ih =>
    simp only [byteSum]
    by_cases e : j = n
    · subst e
      rw [byteSum_congr (g := g) fun k hk => h k (by omega)]
      bv_omega
    · have hi := ih (by omega)
      rw [h n (by omega)]
      bv_omega

/-- The field table of a well-formed profile lies inside the frame (45_field_decoder.md R196). -/
theorem fields_inside {W : Nat} {p : DeviceProfile} (h : p.wellFormed W = true) :
    p.fields.sensorBase + 2 * p.fields.sensorCount ≤ p.len ∧ p.fields.outBase + p.fields.outBytes.val ≤ p.len ∧
      p.fields.speedBase + p.fields.speedCount ≤ p.len ∧ p.fields.analogBase + p.fields.analogCount ≤ p.len := by
  simp only [DeviceProfile.wellFormed, DeviceProfile.fieldsInside, Bool.and_eq_true, decide_eq_true_eq] at h
  exact ⟨h.2.1.1.1, h.2.1.1.2, h.2.1.2, h.2.2⟩

end Sys2Proof.Machine
end

