-- ==== Sys2Proof/Laws/PerInstr.lean ====
section
/-!
SUPPORT. One lemma per constructor of Instr: the word of an operation is in its row's format and carries the code
spec/opcode_table.json gives the row.
-/

namespace Sys2Proof

/-- The bits spec/opcode_table.json matches: the event code, the stage code, the width class. -/
def OpWord.tableCode : OpWord → Nat
  | .evt w => EventWord.code w
  | .stg w => w.toNat
  | .pc w => (codeClass w).toNat

/-- The code of each row of spec/opcode_table.json (30_encoding.md R91, R97, R99). -/
def Instr.tableCode : Instr → Nat
  | .edge _ _ => 1
  | .config _ _ _ => 2
  | .start _ => 3
  | .readReq _ => 4
  | .poll _ => 5
  | .getField _ _ => 6
  | .assemble => 0
  | .sync => 1
  | .trim => 2
  | .chkdev => 3
  | .chkcrc => 4
  | .commit => 5
  | .sw _ => 0
  | .dw _ => 1
  | .sh _ => 2
  | .bt _ => 3
  | .ld _ => 4
  | .lt _ => 5

/-- The event code is read back from the word it was written in. -/
theorem EventWord.code_make {code : Nat} (low wide : Nat) (h : code < 8) :
    EventWord.code (EventWord.make code low wide) = code := by
  unfold EventWord.code EventWord.make
  omega

namespace Laws.WordFormat

def Statement (i : Instr) : Prop := (encode i).format = i.format ∧ (encode i).tableCode = i.tableCode

theorem edge (level : Bool) (now : Time) : Statement (.edge level now) :=
  ⟨rfl, EventWord.code_make _ _ (by decide)⟩
theorem config (model : BitVec 2) (pin : Nat) (pinmode : BitVec 2) : Statement (.config model pin pinmode) :=
  ⟨rfl, EventWord.code_make _ _ (by decide)⟩
theorem start (now : Time) : Statement (.start now) := ⟨rfl, EventWord.code_make _ _ (by decide)⟩
theorem readReq (now : Time) : Statement (.readReq now) := ⟨rfl, EventWord.code_make _ _ (by decide)⟩
theorem poll (now : Time) : Statement (.poll now) := ⟨rfl, EventWord.code_make _ _ (by decide)⟩
theorem getField (group : BitVec 3) (index : Nat) : Statement (.getField group index) :=
  ⟨rfl, EventWord.code_make _ _ (by decide)⟩
theorem assemble : Statement .assemble := ⟨rfl, rfl⟩
theorem sync : Statement .sync := ⟨rfl, rfl⟩
theorem trim : Statement .trim := ⟨rfl, rfl⟩
theorem chkdev : Statement .chkdev := ⟨rfl, rfl⟩
theorem chkcrc : Statement .chkcrc := ⟨rfl, rfl⟩
theorem commit : Statement .commit := ⟨rfl, rfl⟩
theorem sw (level : Bool) : Statement (.sw level) := by cases level <;> exact ⟨rfl, rfl⟩
theorem dw (level : Bool) : Statement (.dw level) := by cases level <;> exact ⟨rfl, rfl⟩
theorem sh (level : Bool) : Statement (.sh level) := by cases level <;> exact ⟨rfl, rfl⟩
theorem bt (level : Bool) : Statement (.bt level) := by cases level <;> exact ⟨rfl, rfl⟩
theorem ld (level : Bool) : Statement (.ld level) := by cases level <;> exact ⟨rfl, rfl⟩
theorem lt (level : Bool) : Statement (.lt level) := by cases level <;> exact ⟨rfl, rfl⟩

end Laws.WordFormat

end Sys2Proof
end

