-- ==== Sys2Proof/Laws/Synchronizer.lean ====
section
/-!
SUPPORT. What SCAN16, SKIP1 and INVERT compute (42_frame_synchronizer.md R161, R162, R163).
-/

namespace Sys2Proof.Machine

/-- `n` ones from `j`. -/
theorem onesFrom_eq_true {bit : Nat → Bool} {n j : Nat} :
    onesFrom bit n j = true ↔ ∀ m, m < n → bit (j + m) = true := by
  induction n generalizing j with
  | zero => simp [onesFrom]
  | succ n ih =>
    simp only [onesFrom, Bool.and_eq_true, ih]
    constructor
    · rintro ⟨h0, h⟩ m hm
      cases m with
      | zero => exact h0
      | succ m => simpa [Nat.add_assoc, Nat.add_comm 1 m] using h m (by omega)
    · intro h
      exact ⟨h 0 (by omega), fun m hm => by simpa [Nat.add_assoc, Nat.add_comm 1 m] using h (m + 1) (by omega)⟩

/-- A scan finds the least match of its window. -/
theorem scanFrom_eq_some {bit : Nat → Bool} {n j q : Nat} :
    scanFrom bit n j = some q ↔
      j ≤ q ∧ q < j + n ∧ onesFrom bit 16 q = true ∧ ∀ r, j ≤ r → r < q → onesFrom bit 16 r = false := by
  induction n generalizing j with
  | zero =>
    simp only [scanFrom, reduceCtorEq, false_iff]
    rintro ⟨h1, h2, -⟩
    omega
  | succ n ih =>
    simp only [scanFrom, show Config.syncLen = 16 from rfl]
    by_cases h : onesFrom bit 16 j = true
    · rw [if_pos h]
      constructor
      · intro hq
        cases hq
        exact ⟨le_rfl, by omega, h, fun r h1 h2 => by omega⟩
      · rintro ⟨h1, _, _, h4⟩
        rcases Nat.lt_or_ge j q with hlt | hge
        · simp [h4 j le_rfl hlt] at h
        · rw [show q = j by omega]
    · rw [if_neg h, ih]
      constructor
      · rintro ⟨h1, h2, h3, h4⟩
        refine ⟨by omega, by omega, h3, fun r hr1 hr2 => ?_⟩
        rcases Nat.lt_or_ge j r with hlt | hge
        · exact h4 r hlt hr2
        · rw [show r = j by omega]
          simpa using h
      · rintro ⟨h1, h2, h3, h4⟩
        have : j ≠ q := by
          rintro rfl
          exact h h3
        exact ⟨by omega, by omega, h3, fun r hr1 hr2 => h4 r (by omega) hr2⟩

theorem scanFrom_eq_none {bit : Nat → Bool} {n j : Nat} :
    scanFrom bit n j = none ↔ ∀ r, j ≤ r → r < j + n → onesFrom bit 16 r = false := by
  induction n generalizing j with
  | zero =>
    simp only [scanFrom, true_iff]
    intro r h1 h2
    omega
  | succ n ih =>
    simp only [scanFrom, show Config.syncLen = 16 from rfl]
    by_cases h : onesFrom bit 16 j = true
    · rw [if_pos h]
      simp only [reduceCtorEq, false_iff]
      intro hr
      simp [hr j le_rfl (by omega)] at h
    · rw [if_neg h, ih]
      constructor
      · intro hr r h1 h2
        rcases Nat.lt_or_ge j r with hlt | hge
        · exact hr r hlt (by omega)
        · rw [show r = j by omega]
          simpa using h
      · intro hr r h1 h2
        exact hr r (by omega) (by omega)

theorem runAt_iff {bit : Nat → Bool} {blen q : Nat} :
    RunAt bit blen q ↔ q < blen + 1 - 16 ∧ onesFrom bit 16 q = true := by
  unfold RunAt
  rw [onesFrom_eq_true]
  constructor
  · rintro ⟨h1, h2⟩
    exact ⟨by omega, h2⟩
  · rintro ⟨h1, h2⟩
    exact ⟨by omega, h2⟩

/-- SCAN16 finds the first run (42_frame_synchronizer.md R161). -/
theorem scan16_eq_some {bit : Nat → Bool} {blen q : Nat} : scan16 bit blen = some q ↔ FirstRunAt bit blen q := by
  unfold scan16 FirstRunAt
  rw [show Config.syncLen = 16 from rfl, scanFrom_eq_some]
  simp only [runAt_iff]
  constructor
  · rintro ⟨-, h2, h3, h4⟩
    exact ⟨⟨by omega, h3⟩, fun r hr h => by simp [h4 r (by omega) hr] at h⟩
  · rintro ⟨⟨h2, h3⟩, h4⟩
    refine ⟨by omega, by omega, h3, fun r _ hr => ?_⟩
    have := h4 r hr
    simp only [not_and, Bool.not_eq_true] at this
    exact this (by omega)

/-- SCAN16 finds nothing exactly when there is no run. -/
theorem scan16_eq_none {bit : Nat → Bool} {blen : Nat} :
    scan16 bit blen = none ↔ ∀ r, ¬ RunAt bit blen r := by
  unfold scan16
  rw [show Config.syncLen = 16 from rfl, scanFrom_eq_none]
  simp only [runAt_iff, not_and, Bool.not_eq_true]
  constructor
  · intro h r hr
    exact h r (by omega) (by omega)
  · intro h r _ hr
    exact h r (by omega)

/-- SCAN16 reads only the elements below `blen`. -/
theorem scan16_congr {f g : Nat → Bool} {blen : Nat} (h : ∀ k, k < blen → f k = g k) :
    scan16 f blen = scan16 g blen := by
  have hr : ∀ q, RunAt f blen q ↔ RunAt g blen q := by
    intro q
    unfold RunAt
    constructor
    · rintro ⟨h1, h2⟩
      exact ⟨h1, fun m hm => by rw [← h (q + m) (by omega)]; exact h2 m hm⟩
    · rintro ⟨h1, h2⟩
      exact ⟨h1, fun m hm => by rw [h (q + m) (by omega)]; exact h2 m hm⟩
  have hf : ∀ q, FirstRunAt f blen q ↔ FirstRunAt g blen q := by
    intro q
    unfold FirstRunAt
    simp only [hr]
  cases hg : scan16 g blen with
  | some q => exact scan16_eq_some.2 ((hf q).2 (scan16_eq_some.1 hg))
  | none =>
    refine scan16_eq_none.2 fun r => ?_
    rw [hr]
    exact scan16_eq_none.1 hg r

theorem skipFrom_spec (bit : Nat → Bool) (n j : Nat) :
    j ≤ skipFrom bit n j ∧ skipFrom bit n j ≤ j + n ∧
      (skipFrom bit n j = j + n ∨ bit (skipFrom bit n j) = false) ∧
      ∀ k, j ≤ k → k < skipFrom bit n j → bit k = true := by
  induction n generalizing j with
  | zero =>
    refine ⟨le_rfl, le_rfl, .inl rfl, fun k h1 h2 => ?_⟩
    simp only [skipFrom] at h2
    omega
  | succ n ih =>
    simp only [skipFrom]
    by_cases h : bit j = true
    · rw [if_pos h]
      obtain ⟨h1, h2, h3, h4⟩ := ih (j + 1)
      refine ⟨by omega, by omega, ?_, fun k hk1 hk2 => ?_⟩
      · rcases h3 with h3 | h3
        · exact .inl (by omega)
        · exact .inr h3
      · rcases Nat.lt_or_ge j k with hlt | hge
        · exact h4 k hlt hk2
        · rw [show k = j by omega]
          exact h
    · rw [if_neg h]
      exact ⟨le_rfl, by omega, .inr (by simpa using h), fun k h1 h2 => by omega⟩

/-- SKIP1 stops at the first 0 or at the end (42_frame_synchronizer.md R162). -/
theorem skip1_spec (bit : Nat → Bool) {blen j0 : Nat} (h : j0 ≤ blen) :
    FirstZeroFrom bit blen j0 (skip1 bit blen j0) := by
  unfold skip1 FirstZeroFrom
  obtain ⟨h1, h2, h3, h4⟩ := skipFrom_spec bit (blen - j0) j0
  refine ⟨h1, by omega, ?_, h4⟩
  rcases h3 with h3 | h3
  · exact .inl (by omega)
  · exact .inr h3

/-- The first 0 is unique. -/
theorem firstZeroFrom_unique {bit : Nat → Bool} {blen j0 a b : Nat} (ha : FirstZeroFrom bit blen j0 a)
    (hb : FirstZeroFrom bit blen j0 b) : a = b := by
  obtain ⟨ha1, ha2, ha3, ha4⟩ := ha
  obtain ⟨hb1, hb2, hb3, hb4⟩ := hb
  rcases Nat.lt_trichotomy a b with h | h | h
  · have := hb4 a ha1 h
    rcases ha3 with ha3 | ha3
    · omega
    · simp [this] at ha3
  · exact h
  · have := ha4 b hb1 h
    rcases hb3 with hb3 | hb3
    · omega
    · simp [this] at hb3

theorem firstZeroFrom_congr {f g : Nat → Bool} {blen j0 j : Nat} (h : ∀ k, k < blen → f k = g k)
    (hf : FirstZeroFrom f blen j0 j) : FirstZeroFrom g blen j0 j := by
  obtain ⟨h1, h2, h3, h4⟩ := hf
  refine ⟨h1, h2, ?_, fun k hk1 hk2 => ?_⟩
  · rcases Nat.lt_or_ge j blen with hlt | hge
    · rcases h3 with h3 | h3
      · exact .inl h3
      · exact .inr (by rw [← h j hlt]; exact h3)
    · exact .inl (by omega)
  · rw [← h k (by omega)]
    exact h4 k hk1 hk2

theorem find_flipBits (bit : Nat → Bool) (n : Nat) (m : Memory Bool) (k : Nat) :
    (flipBits bit n m).find k = if k < n then some (!bit k) else m.find k := by
  induction n with
  | zero => simp [flipBits]
  | succ n ih =>
    simp only [flipBits, Memory.find_write, ih]
    by_cases h : n = k
    · subst h
      simp
    · rw [if_neg h]
      by_cases h2 : k < n
      · rw [if_pos h2, if_pos (by omega)]
      · rw [if_neg h2, if_neg (by omega)]

/-- INVERT complements every bit below `blen` and no other (42_frame_synchronizer.md R163). -/
theorem invert_readBit (s : State) (k : Nat) :
    s.invert.readBit k = if k < s.blen then !s.readBit k else s.readBit k := by
  have h : s.invert.readBit k = (s.invert.bits.find k).getD (Config.unwrittenBit k) := rfl
  rw [h, State.invert_bits, find_flipBits]
  split <;> rfl

theorem wf_flipBits (bit : Nat → Bool) (n : Nat) {m : Memory Bool} (h : m.wf = true) :
    (flipBits bit n m).wf = true := by
  induction n with
  | zero => exact h
  | succ n ih => exact Memory.wf_write _ _ ih

theorem State.locate_start (s : State) (p : DeviceProfile) (inv : Bool) (q : Nat) :
    (s.locate p inv q).start = skip1 s.readBit s.blen (q + 16) := by
  unfold State.locate
  rfl

theorem State.locate_result (s : State) (p : DeviceProfile) (inv : Bool) (q : Nat) :
    (s.locate p inv q).result =
      if s.blen - (s.locate p inv q).start < p.minBits then some .frameTooShort else none := by
  unfold State.locate
  rfl

/-- Everything the two attempts of SYNC can end in (42_frame_synchronizer.md R160). -/
theorem synced_cases (s : State) (p : DeviceProfile) :
    (∃ q, scan16 s.readBit s.blen = some q ∧ s.synced p = s.locate p false q) ∨
    (∃ q, scan16 s.readBit s.blen = none ∧ scan16 s.invert.readBit s.blen = some q ∧
      s.synced p = s.invert.locate p true q) ∨
    (scan16 s.readBit s.blen = none ∧ scan16 s.invert.readBit s.blen = none ∧
      s.synced p = (s.invert.loseSync p.cap).withResult (some .noFrame)) := by
  unfold State.synced
  cases h1 : scan16 s.readBit s.blen with
  | some q => exact .inl ⟨q, rfl, rfl⟩
  | none =>
    cases h2 : scan16 s.invert.readBit s.blen with
    | some q => exact .inr (.inl ⟨q, rfl, rfl, by simp only⟩)
    | none => exact .inr (.inr ⟨rfl, rfl, by simp only⟩)

end Sys2Proof.Machine
end

