-- ==== Sys2Proof/Laws/Stages.lean ====
section
/-!
SUPPORT. What a stage and a PulseCode can write, and one lemma per stage that says once everything it can end in
(41_frame_assembler.md R140 to 44_device_validator.md R188).
-/

namespace Sys2Proof.Machine

/-- What the stages before COMMIT and the PulseCodes may write. -/
def WorkFrame (s t : State) : Prop :=
  t = { s with hc := t.hc, ac := t.ac, bits := t.bits, blen := t.blen, inverted := t.inverted
               syncPos := t.syncPos, start := t.start, frame := t.frame, pos := t.pos, result := t.result
               free := t.free }

theorem WorkFrame.refl (s : State) : WorkFrame s s := rfl

theorem WorkFrame.trans {s t u : State} (h1 : WorkFrame s t) (h2 : WorkFrame t u) : WorkFrame s u := by
  unfold WorkFrame at *
  rw [h1] at h2
  exact h2

theorem AsmFrame.work {s t : State} (h : AsmFrame s t) : WorkFrame s t := by
  unfold AsmFrame at h
  unfold WorkFrame
  rw [h]

theorem WorkFrame.configured {s t : State} (h : WorkFrame s t) : t.configured = s.configured := by rw [h]
theorem WorkFrame.profile {s t : State} (h : WorkFrame s t) : t.profile = s.profile := by rw [h]; rfl
theorem WorkFrame.buf {s t : State} (h : WorkFrame s t) : t.buf = s.buf := by rw [h]
theorem WorkFrame.readCode {s t : State} (h : WorkFrame s t) : t.readCode = s.readCode := by rw [h]; rfl

/-! ### PulseCodes and ASSEMBLE -/

theorem emit_frame {b : Bool} {s t : State} (h : emit b s = .next t) : AsmFrame s t := by
  rw [emit_eq_next] at h
  rw [h.2.2]
  exact .emitted s b

theorem anom_frame {s t : State} (h : anom s = .next t) : AsmFrame s t := by
  rcases anom_cases s with ⟨_, e⟩ | ⟨_, _, e⟩ | ⟨_, _, e⟩ <;> rw [e] at h <;> cases h <;> rfl

theorem execSw_frame {l : Bool} {s t : State} (h : execSw l s = .next t) : AsmFrame s t := by
  unfold execSw at h
  obtain ⟨u, h1, h2⟩ := andThen_eq_next.1 h
  cases h2
  exact (emit_frame h1).trans (.nextSlot u)

theorem emitPair_frame {a b : Bool} {s t : State}
    (h : andThen (emit a s) (fun u => andThen (emit b u) fun v => .next v.nextSlot) = .next t) : AsmFrame s t := by
  obtain ⟨u, h1, h2⟩ := andThen_eq_next.1 h
  obtain ⟨v, h3, h4⟩ := andThen_eq_next.1 h2
  cases h4
  exact ((emit_frame h1).trans (emit_frame h3)).trans (.nextSlot v)

theorem execDw_frame {l : Bool} {s t : State} (h : execDw l s = .next t) : AsmFrame s t := emitPair_frame h

theorem execLt_frame {l : Bool} {s t : State} (h : execLt l s = .next t) : AsmFrame s t := by
  unfold execLt at h
  split at h
  · exact emitPair_frame h
  · split at h
    · split at h
      · exact execSw_frame h
      · cases h
        exact .nextSlot _
    · exact anom_frame h

theorem execSlot_frame {c : PulseCode} {s t : State} (h : execSlot c s = .next t) : AsmFrame s t := by
  unfold execSlot at h
  split at h
  · exact execSw_frame h
  · exact execDw_frame h
  · exact anom_frame h
  · exact anom_frame h
  · exact anom_frame h
  · exact execLt_frame h
  · cases h

theorem assembleLoop_frame {n : Nat} {s t : State} (h : assembleLoop n s = .next t) : AsmFrame s t := by
  induction n generalizing s with
  | zero =>
    cases h
    exact .refl _
  | succ n ih =>
    obtain ⟨u, h1, h2⟩ := andThen_eq_next.1 h
    have hf := execSlot_frame h1
    cases hr : u.result with
    | none =>
      rw [hr] at h2
      exact hf.trans (ih h2)
    | some c =>
      rw [hr] at h2
      cases h2
      exact hf

theorem endAssemble_frame (s : State) (cap : Nat) : WorkFrame s (s.endAssemble cap) := by
  unfold State.endAssemble
  split <;> rfl

theorem execAssemble_frame {s t : State} (h : execAssemble s = .next t) : WorkFrame s t := by
  obtain ⟨_, h⟩ := withProfile_eq_next.1 h
  obtain ⟨u, h1, h2⟩ := andThen_eq_next.1 h
  cases h2
  exact (WorkFrame.trans (show WorkFrame s s.beginAssemble from rfl) (assembleLoop_frame h1).work).trans
    (endAssemble_frame u _)

/-- A list of codes that has no meaning holds a reserved class. -/
theorem streamView_reserved {seed : Bool} {i : Nat} {prev : PulseCode} {ac : Nat} {cs : List PulseCode}
    (h : streamView seed i prev ac cs = .reserved) : ∃ c, c ∈ cs ∧ decodeClass (codeClass c) = none := by
  induction cs generalizing i prev ac with
  | nil => cases h
  | cons c cs ih =>
    simp only [streamView] at h
    cases hv : slotView seed i prev c with
    | emits hs =>
      rw [hv] at h
      simp only at h
      cases hw : streamView seed (i + 1) c ac cs with
      | done rest n =>
        rw [hw] at h
        cases h
      | overrun =>
        rw [hw] at h
        cases h
      | reserved =>
        obtain ⟨d, h1, h2⟩ := ih hw
        exact ⟨d, List.mem_cons_of_mem _ h1, h2⟩
    | counts =>
      rw [hv] at h
      simp only at h
      split at h
      · cases h
      · obtain ⟨d, h1, h2⟩ := ih h
        exact ⟨d, List.mem_cons_of_mem _ h1, h2⟩
    | refuses =>
      refine ⟨c, List.mem_cons_self .., ?_⟩
      cases hd : decodeClass (codeClass c) with
      | none => rfl
      | some cls =>
        unfold slotView at hv
        rw [hd] at hv
        cases cls <;> simp only at hv <;> first | cases hv | (split at hv <;> first | cases hv | (split at hv <;> cases hv))

/-- ASSEMBLE completes, ok or with AnomalyOverrun, or meets a reserved code (41_frame_assembler.md R140, R149, R151). -/
theorem execAssemble_cases {s : State} (hc : s.configured = true) :
    (∃ t, execAssemble s = .next t ∧ WorkFrame s t ∧ t.frame = s.frame ∧ t.blen ≤ s.profile.cap ∧
      (s.bits.wf = true → t.bits.wf = true) ∧ (t.result = none ∨ t.result = some .anomalyOverrun)) ∨
    (execAssemble s = .refused .reservedPulseCode ∧
      ∃ i, i < s.profile.cap ∧ decodeClass (codeClass (s.readCode i)) = none) := by
  have hv := assembleLoop_view s.profile.cap s.beginAssemble 0#4 hc (fun h => absurd rfl h) (Nat.le_refl 0)
    (by simp only [State.beginAssemble_pos]; exact Nat.le_of_eq (Nat.zero_add _)) (Nat.zero_le 4) rfl
  unfold execAssemble
  rw [withProfile_of_configured hc]
  cases hw : streamView s.beginAssemble.par.seedEmit s.beginAssemble.pos 0#4 s.beginAssemble.ac
      ((List.range' s.beginAssemble.pos s.profile.cap).map s.beginAssemble.readCode) with
  | done hs k =>
    rw [hw] at hv
    obtain ⟨t, h1, h2, h3, h4, h5, h6, h7, h8⟩ := hv
    have he : t.endAssemble s.profile.cap = { t with blen := t.hc / 2 } := by
      unfold State.endAssemble
      rw [h2]
    refine .inl ⟨t.endAssemble s.profile.cap, by rw [h1, andThen_next], ?_, ?_, ?_, ?_, ?_⟩
    · exact (WorkFrame.trans (show WorkFrame s s.beginAssemble from rfl) h6.work).trans (endAssemble_frame t _)
    · rw [he, show t.frame = s.frame by rw [h6]; rfl]
    · rw [he]
      simp only [State.beginAssemble_pos] at h7
      show t.hc / 2 ≤ s.profile.cap
      omega
    · rw [he]
      exact h8
    · rw [he]
      exact .inl h2
  | overrun =>
    rw [hw] at hv
    obtain ⟨t, h1, h2, h3, h4, h5⟩ := hv
    have he : t.endAssemble s.profile.cap = t.loseBits s.profile.cap := by
      unfold State.endAssemble
      rw [h2]
    refine .inl ⟨t.endAssemble s.profile.cap, by rw [h1, andThen_next], ?_, ?_, ?_, ?_, ?_⟩
    · exact (WorkFrame.trans (show WorkFrame s s.beginAssemble from rfl) h4.work).trans (endAssemble_frame t _)
    · rw [he, State.loseBits_frame, show t.frame = s.frame by rw [h4]; rfl]
    · rw [he, State.loseBits_blen]
      exact Nat.le_of_lt_succ (Nat.mod_lt _ (Nat.succ_pos s.profile.cap))
    · rw [he]
      exact fun _ => Memory.wf_map_range (fun k => Config.freeBit (t.free + k)) _
    · rw [he, State.loseBits_result]
      exact .inr h2
  | reserved =>
    rw [hw] at hv
    simp only at hv
    refine .inr ⟨by rw [hv]; rfl, ?_⟩
    obtain ⟨c, h1, h2⟩ := streamView_reserved hw
    obtain ⟨i, hi, rfl⟩ := List.mem_map.1 h1
    exact ⟨i, by simp only [List.mem_range'_1, State.beginAssemble_pos] at hi; omega, h2⟩

/-! ### SYNC and TRIM -/

theorem execSync_next {s : State} (hc : s.configured = true) (hb : s.blen ≤ s.profile.cap) :
    execSync s = .next (s.synced s.profile) := by
  unfold execSync
  rw [withProfile_of_configured hc]
  exact if_pos hb

theorem execSync_eq_next {s t : State} (h : execSync s = .next t) :
    s.configured = true ∧ s.blen ≤ s.profile.cap ∧ t = s.synced s.profile := by
  obtain ⟨hc, h⟩ := withProfile_eq_next.1 h
  split at h
  · cases h
    exact ⟨hc, ‹_›, rfl⟩
  · cases h

/-- Everything SYNC's assignments can leave (42_frame_synchronizer.md R160 to R165). -/
theorem synced_spec (s : State) (p : DeviceProfile) :
    WorkFrame s (s.synced p) ∧ (s.synced p).frame = s.frame ∧ (s.synced p).blen = s.blen ∧
      (s.bits.wf = true → (s.synced p).bits.wf = true) ∧
      (((s.synced p).result = none ∧ (s.synced p).start ≤ s.blen ∧ p.minBits ≤ s.blen - (s.synced p).start) ∨
        (s.synced p).result = some .frameTooShort ∨ (s.synced p).result = some .noFrame) := by
  have loc : ∀ (u : State) (inv : Bool) (q : Nat), scan16 u.readBit u.blen = some q →
      ((u.locate p inv q).result = none ∧ (u.locate p inv q).start ≤ u.blen ∧
        p.minBits ≤ u.blen - (u.locate p inv q).start) ∨ (u.locate p inv q).result = some .frameTooShort ∨
        (u.locate p inv q).result = some .noFrame := by
    intro u inv q hq
    have hz := skip1_spec u.readBit (show q + 16 ≤ u.blen from (scan16_eq_some.1 hq).1.1)
    rw [← State.locate_start u p inv q] at hz
    rw [State.locate_result]
    split
    · exact .inr (.inl rfl)
    · exact .inl ⟨rfl, hz.2.1, by omega⟩
  rcases synced_cases s p with ⟨q, h1, e⟩ | ⟨q, h1, h2, e⟩ | ⟨h1, h2, e⟩
  · rw [e]
    exact ⟨rfl, rfl, rfl, id, loc s false q h1⟩
  · rw [e]
    exact ⟨rfl, rfl, rfl, wf_flipBits _ _, loc s.invert true q h2⟩
  · rw [e]
    exact ⟨rfl, rfl, rfl, wf_flipBits _ _, .inr (.inr rfl)⟩

theorem execTrim_next {s : State} (hc : s.configured = true) (hb : s.start + 10 * s.profile.len < s.blen + 2) :
    execTrim s = .next (s.trimmed s.profile) := by
  unfold execTrim
  rw [withProfile_of_configured hc]
  exact if_pos hb

theorem execTrim_eq_next {s t : State} (h : execTrim s = .next t) :
    s.configured = true ∧ t = s.trimmed s.profile := by
  obtain ⟨hc, h⟩ := withProfile_eq_next.1 h
  split at h
  · cases h
    exact ⟨hc, rfl⟩
  · cases h

/-! ### CHKDEV and CHKCRC -/

theorem devOk_iff (p : DeviceProfile) (f : Nat → Byte) :
    devOk p f = true ↔ f 0 = p.id0 ∧ ∀ b, p.id1 = some b → f 1 = b := by
  unfold devOk
  cases p.id1 <;> simp

theorem crcOk_iff (p : DeviceProfile) (f : Nat → Byte) :
    crcOk p f = true ↔ p.crcIdx = 0 ∨ byteSum f p.crcIdx = f p.crcIdx := by
  unfold crcOk
  simp

theorem execChkdev_next {s : State} (hc : s.configured = true) (hp : s.profile.idInside = true) :
    execChkdev s =
      .next (s.withResult (if devOk s.profile s.readFrame then none else some .deviceMismatch)) := by
  unfold execChkdev
  rw [withProfile_of_configured hc]
  exact if_pos hp

theorem execChkdev_eq_next {s t : State} (h : execChkdev s = .next t) :
    s.configured = true ∧
      t = s.withResult (if devOk s.profile s.readFrame then none else some .deviceMismatch) := by
  obtain ⟨hc, h⟩ := withProfile_eq_next.1 h
  split at h
  · cases h
    exact ⟨hc, rfl⟩
  · cases h

theorem execChkcrc_next {s : State} (hc : s.configured = true) (hp : s.profile.crcIdx < s.profile.len) :
    execChkcrc s =
      .next (s.withResult (if crcOk s.profile s.readFrame then none else some .checksumMismatch)) := by
  unfold execChkcrc
  rw [withProfile_of_configured hc]
  split
  · rw [if_pos ((crcOk_iff _ _).2 (.inl ‹_›))]
  · rfl

theorem execChkcrc_eq_next {s t : State} (h : execChkcrc s = .next t) :
    s.configured = true ∧
      t = s.withResult (if crcOk s.profile s.readFrame then none else some .checksumMismatch) := by
  obtain ⟨hc, h⟩ := withProfile_eq_next.1 h
  refine ⟨hc, ?_⟩
  split at h
  · rw [if_pos ((crcOk_iff _ _).2 (.inl ‹_›))]
    cases h
    rfl
  · split at h
    · cases h
      rfl
    · cases h

end Sys2Proof.Machine
end

