-- ==== Sys2Proof/Laws/Sequencer.lean ====
section
/-!
SUPPORT. One lemma per event operation that says once everything it can do, and PROCESS as a whole (46_sequencer.md).
-/

namespace Sys2Proof.Machine

/-! ### EDGE, CONFIG, START, READ_REQ, GET_FIELD -/

/-- EDGE, armed, configured and inside the pulse space (40_edge_sampler.md R120). -/
theorem execEdge_armed {s : State} (level : Bool) (now : Time) (ha : s.armed = true) (hc : s.configured = true)
    (hw : s.wr < s.profile.cap) :
    execEdge level now s =
      .next (State.storeCode { s with lastEdgeTime := now } s.profile.cap
        (composeCode (classify (interval s.par.widths.time now s.lastEdgeTime) s.profile) level)) := by
  unfold execEdge withProfile
  simp only [ha, hc, if_true]
  exact if_pos hw

theorem execEdge_eq_next {level : Bool} {now : Time} {s t : State} (h : execEdge level now s = .next t) :
    (s.armed = false ∧ t = { s with lastEdgeTime := now }) ∨
    (s.armed = true ∧ s.configured = true ∧ s.wr < s.profile.cap ∧
      t = State.storeCode { s with lastEdgeTime := now } s.profile.cap
        (composeCode (classify (interval s.par.widths.time now s.lastEdgeTime) s.profile) level)) := by
  unfold execEdge at h
  by_cases ha : s.armed = true
  · simp only [if_pos ha] at h
    obtain ⟨hc, h⟩ := withProfile_eq_next.1 h
    by_cases hw : s.wr < s.profile.cap
    · exact .inr ⟨ha, hc, hw, (Host.Outcome.next.inj ((if_pos hw).symm.trans h)).symm⟩
    · exact nomatch ((if_neg hw).symm.trans h)
  · simp only [if_neg ha] at h
    cases h
    exact .inl ⟨by simpa using ha, rfl⟩

theorem execConfig_eq_next {model : BitVec 2} {pin : Nat} {pinmode : BitVec 2} {s t : State}
    (h : execConfig model pin pinmode s = .next t) :
    s.armed = false ∧ pinmode ≠ 3#2 ∧ (s.par.profiles.get model).wellFormed s.par.widths.time = true ∧
      t = s.configure model pin pinmode := by
  unfold execConfig at h
  split at h
  · cases h
  · split at h
    · cases h
    · split at h
      · cases h
        exact ⟨by simpa using ‹¬ s.armed = true›, ‹_›, ‹_›, rfl⟩
      · cases h

theorem execReadReq_cases (now : Time) (s : State) :
    (s.configured = false ∧ execReadReq now s = .refused .notConfigured) ∨
    (s.configured = true ∧ s.armed = true ∧ execReadReq now s = .next { s with suppress := false }) ∨
    (s.configured = true ∧ s.armed = false ∧
      execReadReq now s = .next (State.arm { s with suppress := false } now)) := by
  unfold execReadReq startOp
  cases s.configured <;> cases s.armed <;> simp

theorem execGetField_valid {s : State} (group : BitVec 3) (index : Nat) (hv : s.valid = true)
    (hc : s.configured = true) :
    execGetField group index s =
      andThen (groupField s.profile s.readFrame group index) fun r => .next (s.answer r) := by
  unfold execGetField
  rw [if_pos hv, withProfile_of_configured hc]

theorem execGetField_eq_next {group : BitVec 3} {index : Nat} {s t : State}
    (h : execGetField group index s = .next t) : ∃ r, t = s.answer r := by
  unfold execGetField at h
  split at h
  · obtain ⟨_, h⟩ := withProfile_eq_next.1 h
    obtain ⟨r, _, h⟩ := andThen_eq_next.1 h
    cases h
    exact ⟨r, rfl⟩
  · cases h
    exact ⟨_, rfl⟩

/-! ### POLL and PROCESS -/

theorem execPoll_cases (now : Time) (s : State) :
    (s.outstanding = false ∧ execPoll now s = .next s) ∨
    (s.outstanding = true ∧ s.armed = true ∧ s.wr = 0 ∧ s.guardExpired now = true ∧
      execPoll now s = .next s.timeout) ∨
    (s.outstanding = true ∧ s.armed = true ∧ ¬ (s.wr = 0 ∧ s.guardExpired now = true) ∧
      execPoll now s = .next s) ∨
    (s.outstanding = true ∧ s.armed = false ∧ execPoll now s = process s) := by
  unfold execPoll
  cases s.outstanding <;> cases s.armed <;> by_cases hw : s.wr = 0 <;> cases s.guardExpired now <;> simp [hw]

/-- A stage that fails ends the cycle; one that passes hands on (46_sequencer.md R225). -/
theorem runStages_failed {stage : State → Host.Outcome State Fault Refusal}
    {rest : List (State → Host.Outcome State Fault Refusal)} {s t : State} {c : CycleFailure}
    (h : stage s = .next t) (hr : t.result = some c) : runStages (stage :: rest) s = .next (t.fail c) := by
  simp only [runStages, h, andThen_next, hr]

theorem runStages_passed {stage : State → Host.Outcome State Fault Refusal}
    {rest : List (State → Host.Outcome State Fault Refusal)} {s t : State}
    (h : stage s = .next t) (hr : t.result = none) : runStages (stage :: rest) s = runStages rest t := by
  simp only [runStages, h, andThen_next, hr]

/-- How a list of stages can complete: all passed and COMMIT ran, or one failed. -/
def CycleEnd (s t : State) : Prop :=
  (∃ u, WorkFrame s u ∧ devOk u.profile u.readFrame = true ∧ crcOk u.profile u.readFrame = true ∧
    t = u.committed) ∨
  (∃ u c, WorkFrame s u ∧ u.result = some c ∧ t = u.fail c)

theorem CycleEnd.of_work {s u t : State} (h : WorkFrame s u) (he : CycleEnd u t) : CycleEnd s t := by
  rcases he with ⟨v, hv, h1, h2, h3⟩ | ⟨v, c, hv, h1, h2⟩
  · exact .inl ⟨v, h.trans hv, h1, h2, h3⟩
  · exact .inr ⟨v, c, h.trans hv, h1, h2⟩

theorem runStages_eq_next {stage : State → Host.Outcome State Fault Refusal}
    {rest : List (State → Host.Outcome State Fault Refusal)} {s t : State}
    (h : runStages (stage :: rest) s = .next t) :
    ∃ u, stage s = .next u ∧
      ((∃ c, u.result = some c ∧ t = u.fail c) ∨ (u.result = none ∧ runStages rest u = .next t)) := by
  obtain ⟨u, h1, h2⟩ := andThen_eq_next.1 h
  refine ⟨u, h1, ?_⟩
  cases hr : u.result with
  | none =>
    rw [hr] at h2
    exact .inr ⟨rfl, h2⟩
  | some c =>
    rw [hr] at h2
    cases h2
    exact .inl ⟨c, rfl, rfl⟩

/-- Whenever PROCESS completes it ends with both checks passed and COMMIT, or with FAIL (46_sequencer.md R225). -/
theorem process_eq_next {s t : State} (h : process s = .next t) : CycleEnd { s with outstanding := false } t := by
  unfold process stages at h
  obtain ⟨u1, h1, e⟩ := runStages_eq_next h
  have w1 := execAssemble_frame h1
  rcases e with ⟨c, hr, e⟩ | ⟨-, h⟩
  · exact .inr ⟨u1, c, w1, hr, e⟩
  obtain ⟨u2, h2, e⟩ := runStages_eq_next h
  have w2 : WorkFrame u1 u2 := by
    obtain ⟨-, -, h2⟩ := execSync_eq_next h2
    rw [h2]
    exact (synced_spec u1 u1.profile).1
  refine .of_work (w1.trans w2) ?_
  rcases e with ⟨c, hr, e⟩ | ⟨-, h⟩
  · exact .inr ⟨u2, c, .refl u2, hr, e⟩
  obtain ⟨u3, h3, e⟩ := runStages_eq_next h
  have w3 : WorkFrame u2 u3 := by
    rw [(execTrim_eq_next h3).2]
    rfl
  refine .of_work w3 ?_
  rcases e with ⟨c, hr, e⟩ | ⟨-, h⟩
  · exact .inr ⟨u3, c, .refl u3, hr, e⟩
  obtain ⟨u4, h4, e⟩ := runStages_eq_next h
  have e4 := (execChkdev_eq_next h4).2
  have w4 : WorkFrame u3 u4 := by
    rw [e4]
    rfl
  refine .of_work w4 ?_
  rcases e with ⟨c, hr, e⟩ | ⟨hr4, h⟩
  · exact .inr ⟨u4, c, .refl u4, hr, e⟩
  have hdev : devOk u4.profile u4.readFrame = true := by
    rw [e4] at hr4 ⊢
    simp only [State.withResult_result] at hr4
    split at hr4
    · assumption
    · cases hr4
  obtain ⟨u5, h5, e⟩ := runStages_eq_next h
  have e5 := (execChkcrc_eq_next h5).2
  have w5 : WorkFrame u4 u5 := by
    rw [e5]
    rfl
  rcases e with ⟨c, hr, e⟩ | ⟨hr5, h⟩
  · exact .inr ⟨u5, c, w5, hr, e⟩
  have hcrc : crcOk u5.profile u5.readFrame = true := by
    rw [e5] at hr5 ⊢
    simp only [State.withResult_result] at hr5
    split at hr5
    · assumption
    · cases hr5
  have hdev5 : devOk u5.profile u5.readFrame = true := by
    rw [e5]
    exact hdev
  obtain ⟨u6, h6, e⟩ := runStages_eq_next h
  cases h6
  rcases e with ⟨c, hr, e⟩ | ⟨-, h⟩
  · cases hr
  · cases h
    exact .inl ⟨u5, w5, hdev5, hcrc, rfl⟩

/-- PROCESS completes from a configured state with a well-formed profile and no reserved code, with the frame's bytes
written before COMMIT (46_sequencer.md R225, 20_memory.md R68). -/
theorem process_next {s : State} (hc : s.configured = true) (hp : s.profile.wellFormed s.par.widths.time = true)
    (hs : ∀ i, i < s.profile.cap → decodeClass (codeClass (s.readCode i)) ≠ none) :
    ∃ t, process s = .next t ∧ (s.spacesWf = true → t.spacesWf = true) ∧
      (t.valid = true → ∀ k, k < s.profile.len → ∃ b, t.frame.find k = some b) := by
  have hwf := hp
  simp only [DeviceProfile.wellFormed, Bool.and_eq_true, decide_eq_true_eq] at hwf
  obtain ⟨⟨⟨⟨⟨-, hid⟩, hcrc⟩, hcap⟩, hmin⟩, -⟩ := hwf
  rw [show Config.byteBits = 10 from rfl] at hmin
  unfold process stages
  have space : ∀ u : State, u.spacesWf = true ↔ (u.buf.wf = true ∧ u.bits.wf = true) ∧ u.frame.wf = true := by
    intro u
    unfold State.spacesWf
    rw [Bool.and_eq_true, Bool.and_eq_true]
  have failed : ∀ (u : State) (c : CycleFailure), (s.spacesWf = true → u.spacesWf = true) →
      (s.spacesWf = true → (u.fail c).spacesWf = true) ∧
      ((u.fail c).valid = true → ∀ k, k < s.profile.len → ∃ b, (u.fail c).frame.find k = some b) :=
    fun u c h => ⟨h, fun h => Bool.noConfusion h⟩
  rcases execAssemble_cases (s := { s with outstanding := false }) hc with
    ⟨u1, h1, w1, f1, b1, m1, r1⟩ | ⟨-, i, hi, hn⟩
  swap
  · exact absurd hn (hs i hi)
  have s1 : s.spacesWf = true → u1.spacesWf = true := by
    rw [space, space, w1.buf, f1]
    exact fun h => ⟨⟨h.1.1, m1 h.1.2⟩, h.2⟩
  rcases r1 with r1 | r1
  swap
  · exact ⟨_, runStages_failed h1 r1, failed u1 _ s1⟩
  rw [runStages_passed h1 r1]
  have hp1 : u1.profile = s.profile := w1.profile
  have hc1 : u1.configured = true := by rw [w1.configured]; exact hc
  have h2 := execSync_next hc1 (by rw [hp1]; exact b1)
  obtain ⟨w2, f2, b2, m2, r2⟩ := synced_spec u1 u1.profile
  have s2 : s.spacesWf = true → (u1.synced u1.profile).spacesWf = true := by
    intro h
    have h := s1 h
    rw [space] at h ⊢
    rw [w2.buf, f2]
    exact ⟨⟨h.1.1, m2 h.1.2⟩, h.2⟩
  rcases r2 with ⟨r2, hst, hlong⟩ | r2 | r2
  rotate_left
  · exact ⟨_, runStages_failed h2 r2, failed _ _ s2⟩
  · exact ⟨_, runStages_failed h2 r2, failed _ _ s2⟩
  rw [runStages_passed h2 r2]
  rw [← b2] at hst hlong
  have hp2 : (u1.synced u1.profile).profile = s.profile := by rw [w2.profile, hp1]
  have hc2 : (u1.synced u1.profile).configured = true := by rw [w2.configured]; exact hc1
  generalize u1.synced u1.profile = u2 at *
  rw [hp1] at hlong
  have hlen : 1 ≤ s.profile.len := by
    unfold DeviceProfile.idInside at hid
    rw [Bool.and_eq_true, decide_eq_true_eq] at hid
    exact hid.1
  have h3 := execTrim_next hc2 (by rw [hp2]; omega)
  have s3 : s.spacesWf = true → (u2.trimmed u2.profile).spacesWf = true := by
    intro h
    have h := s2 h
    rw [space] at h ⊢
    exact ⟨h.1, wf_trimBytes _ _ _ h.2⟩
  rw [runStages_passed h3 rfl]
  have hf : ∀ k, k < s.profile.len → ∃ b, (u2.trimmed u2.profile).frame.find k = some b := by
    intro k hk
    rw [State.trimmed_frame, find_trimBytes, hp2, if_pos hk]
    exact ⟨_, rfl⟩
  have hp3 : (u2.trimmed u2.profile).profile = s.profile := hp2
  have hc3 : (u2.trimmed u2.profile).configured = true := hc2
  generalize u2.trimmed u2.profile = u3 at *
  have h4 := execChkdev_next hc3 (by rw [hp3]; exact hid)
  cases hd : devOk u3.profile u3.readFrame with
  | false =>
    rw [hd] at h4
    exact ⟨_, runStages_failed h4 rfl, failed _ _ s3⟩
  | true =>
    rw [hd, if_pos rfl] at h4
    rw [runStages_passed h4 rfl]
    have h5 := execChkcrc_next (s := u3.withResult none) hc3 (by rw [State.withResult_profile, hp3]; exact hcrc)
    cases hk : crcOk (u3.withResult none).profile (u3.withResult none).readFrame with
    | false =>
      rw [hk] at h5
      exact ⟨_, runStages_failed h5 rfl, failed _ _ s3⟩
    | true =>
      rw [hk, if_pos rfl] at h5
      rw [runStages_passed h5 rfl]
      exact ⟨_, rfl, s3, fun _ => hf⟩

end Sys2Proof.Machine
end

