-- ==== Sys2Proof/Laws/Telegram.lean ====
section
/-!
SUPPORT. What a telegram's bits look like inside a BitStream (30_encoding.md R96, R108, 42_frame_synchronizer.md R167).
-/

namespace Sys2Proof.Machine

theorem byteFrame_length (v : Byte) : (byteFrame v).length = 10 := rfl
theorem flatMap_byteFrame_length (bs : List Byte) : (bs.flatMap byteFrame).length = 10 * bs.length := by
  induction bs with
  | nil => rfl
  | cons b bs ih => simp only [List.flatMap_cons, List.length_append, ih, byteFrame_length, List.length_cons]; omega
theorem telegram_length (bs : List Byte) : (telegram bs).length = 16 + 10 * bs.length := by
  rw [telegram, List.length_append, flatMap_byteFrame_length, List.length_replicate]; rfl
theorem flatMap_byteFrame_getD (bs : List Byte) (post : List Bool) (k m : Nat) (hk : k < bs.length) (hm : m < 10) :
    ((bs.flatMap byteFrame) ++ post).getD (10 * k + m) false = (byteFrame (bs.getD k 0#8)).getD m false := by
  induction bs generalizing k with
  | nil => simp at hk
  | cons b bs ih =>
    rw [List.flatMap_cons, List.append_assoc]
    cases k with
    | zero => rw [List.getD_append _ _ _ _ (by simp [byteFrame_length]; omega)]; simp
    | succ k =>
      rw [List.getD_append_right _ _ _ _ (by simp [byteFrame_length]; omega), byteFrame_length, show 10*(k+1)+m-10 = 10*k+m by omega, ih k (by simpa using hk)]
      simp

/-- In a stream that holds a telegram the first run starts within 16 bits before it, and the frame starts right after it
(42_frame_synchronizer.md R167). -/
theorem telegram_firstRun (bit : Nat → Bool) (pre post : List Bool) (bytes : List Byte) (hne : bytes ≠ []) (n : Nat)
    (hn : n = (pre ++ telegram bytes ++ post).length)
    (hbit : ∀ k, k < n → bit k = (pre ++ telegram bytes ++ post).getD k false)
    (hpre : ∀ q, ¬ RunAt (fun k => pre.getD k false) pre.length q) :
    ∃ q, FirstRunAt bit n q ∧ FirstZeroFrom bit n (q+16) (pre.length + 16) := by
  have hlen : n = pre.length + 16 + 10 * bytes.length + post.length := by rw [hn]; simp [telegram_length]; omega
  have hb1 : 1 ≤ bytes.length := by cases bytes; exact absurd rfl hne; simp
  have hA : ∀ k, k < pre.length → bit k = pre.getD k false := by
    intro k hk
    rw [hbit k (by omega), List.append_assoc, List.getD_append _ _ _ _ hk]
  have hB : ∀ k, k < 16 → bit (pre.length + k) = true := by
    intro k hk
    rw [hbit _ (by omega), List.append_assoc, List.getD_append_right _ _ _ _ (by omega), telegram, List.append_assoc, List.getD_append _ _ _ _ (by simp [Config.syncLen]; omega)]
    exact List.getD_replicate _ (show pre.length + k - pre.length < 16 by omega)
  have hC : bit (pre.length + 16) = false := by
    rw [hbit _ (by omega), List.append_assoc, List.getD_append_right _ _ _ _ (by omega), telegram, List.append_assoc, List.getD_append_right _ _ _ _ (by simp [Config.syncLen])]
    have := flatMap_byteFrame_getD bytes post 0 0 (by omega) (by omega)
    simp only [List.length_replicate, Config.syncLen]
    rw [show pre.length + 16 - pre.length - 16 = 10*0+0 by omega, this]; rfl
  have hrun : RunAt bit n pre.length := ⟨by omega, hB⟩
  -- the first run q ≤ pre.length
  obtain ⟨q, hq⟩ : ∃ q, FirstRunAt bit n q := by
    cases h : scan16 bit n with
    | some q => exact ⟨q, scan16_eq_some.1 h⟩
    | none => exact absurd hrun (scan16_eq_none.1 h _)
  have hle : q ≤ pre.length := by
    by_contra hlt
    exact hq.2 _ (by omega) hrun
  have hge : pre.length < q + 16 := by
    by_contra hlt
    refine hpre q ⟨by omega, fun m hm => ?_⟩
    show pre.getD (q+m) false = true
    rw [← hA _ (by omega)]; exact hq.1.2 m hm
  refine ⟨q, hq, ⟨by omega, by omega, .inr hC, fun k h1 h2 => ?_⟩⟩
  rw [show k = pre.length + (k - pre.length) by omega]
  exact hB _ (by omega)

/-- The byte frames of a telegram give its bytes back (43_frame_trimmer.md R175). -/
theorem telegram_packByte (bit : Nat → Bool) (pre post : List Bool) (bytes : List Byte) (n : Nat)
    (hn : n = (pre ++ telegram bytes ++ post).length)
    (hbit : ∀ k, k < n → bit k = (pre ++ telegram bytes ++ post).getD k false) (k : Nat) (hk : k < bytes.length) :
    packByte bit (pre.length + 16 + 10 * k + 1) = bytes.getD k 0#8 := by
  have hlen : n = pre.length + 16 + 10 * bytes.length + post.length := by rw [hn]; simp [telegram_length]; omega
  have key : ∀ m, m < 8 → bit (pre.length + 16 + 10*k + 1 + m) = (bytes.getD k 0#8).getLsbD m := by
    intro m hm
    rw [hbit _ (by omega), List.append_assoc, List.getD_append_right _ _ _ _ (by omega), telegram, List.append_assoc, List.getD_append_right _ _ _ _ (by simp [Config.syncLen]; omega)]
    simp only [List.length_replicate, Config.syncLen]
    rw [show pre.length + 16 + 10*k + 1 + m - pre.length - 16 = 10*k + (m+1) by omega, flatMap_byteFrame_getD _ _ _ _ hk (by omega)]
    have : m = 0 ∨ m = 1 ∨ m = 2 ∨ m = 3 ∨ m = 4 ∨ m = 5 ∨ m = 6 ∨ m = 7 := by omega
    rcases this with rfl | rfl | rfl | rfl | rfl | rfl | rfl | rfl <;> rfl
  apply BitVec.eq_of_getLsbD_eq
  intro m hm
  rw [packByte_getLsbD _ _ hm, key m hm]

end Sys2Proof.Machine
end

