-- ==== Sys2Proof/Tests/Slice0.lean ====
section
/-!
SUPPORT. Tests and witnesses. Expected values are worked out by hand in 95_test_vectors.md (V<n> below) or from the
encoding tables of 30_encoding.md; a `witness_<Obligation>` shows concrete inputs that meet all of an obligation's
hypotheses.
-/

open Sys2Proof Sys2Proof.Machine

namespace Sys2Proof.Tests

/-! ### Small states -/

/-- The next state, where there is one. -/
def after (o : Host.Outcome State Fault Refusal) : Option State :=
  match o with
  | .next t => some t
  | .fault _ => none
  | .refused _ => none

/-- The refusal, where there is one. -/
def refusalOf (o : Host.Outcome State Fault Refusal) : Option Refusal :=
  match o with
  | .next _ => none
  | .fault _ => none
  | .refused r => some r

/-- A configured state with the given profile and nothing else. -/
def withP (p : DeviceProfile) : State :=
  { State.reset with
    configured := true
    par := { Params.default with profiles := { Params.default.profiles with p0 := p } } }

/-- A list as a storage space, from index 0 on. -/
def space {α : Type} (l : List α) : Memory α := l.zipIdx.map fun e => (e.2, e.1)

/-- A configured state whose pulse space is exactly the list of codes. -/
def withCodes (codes : List PulseCode) : State :=
  { withP { DeviceProfile.tp2 with cap := codes.length } with buf := space codes }

/-- A configured state with a BitStream, MINBITS 10. -/
def withBits (l : List Bool) : State :=
  { withP { DeviceProfile.tp2 with cap := 100, minBits := 10 } with bits := space l, blen := l.length }

/-- A configured state with a validated frame. -/
def withFrame (p : DeviceProfile) (l : List Byte) : State :=
  { withP p with frame := space l, valid := true, res := .decoded }

def ones (n : Nat) : List Bool := List.replicate n true
def zeros (n : Nat) : List Bool := List.replicate n false

/-- The answer a query adds. -/
def answerOf (s : State) (group : BitVec 3) (index : Nat) : Option (List Output) :=
  (after (exec (.getField group index) s)).map State.outs

/-- P7 with three sensors, a two-byte bitmap, one speed and one analog slot, all over the same bytes. -/
def fieldProfile : DeviceProfile :=
  { DeviceProfile.p7 with
    fields := { FieldTable.empty with
      sensorBase := 1, sensorCount := 3, outBase := 1, outBytes := 2, speedBase := 1, speedCount := 1
      analogBase := 2, analogCount := 1 } }

/-! ### Well-formedness (46_sequencer.md R230) -/

theorem test_wf_pin_at_the_top : (Instr.config 0#2 4294967295 0#2).wellFormed Widths.default = true := by decide
theorem test_wf_refuses_a_wide_pin : (Instr.config 0#2 4294967296 0#2).wellFormed Widths.default = false := by decide
theorem test_wf_index_at_the_top : (Instr.getField 0#3 4294967295).wellFormed Widths.default = true := by decide
theorem test_wf_refuses_a_wide_index : (Instr.getField 0#3 4294967296).wellFormed Widths.default = false := by decide
theorem test_wf_now_at_the_top : (Instr.edge true 4294967295).wellFormed Widths.default = true := by decide
theorem test_wf_refuses_a_wide_now :
    (Instr.edge true 4294967296).wellFormed Widths.default = false ∧
    (Instr.start 4294967296).wellFormed Widths.default = false ∧
    (Instr.readReq 65536).wellFormed { Widths.default with time := 16 } = false ∧
    (Instr.poll 65536).wellFormed { Widths.default with time := 17 } = true := by decide

/-! ### Decoding, word by word (30_encoding.md R90, R91, R97, R99) -/

theorem test_decode_edge : decode Widths.default (.evt 0b00000000000000000001101101011000_00001_001) = .ok (.edge true 7000) := by
  decide
theorem test_decode_config : decode Widths.default (.evt 0b00000000000000000000000000000010_0_01_00_010) = .ok (.config 0#2 2 1#2) := by
  decide
theorem test_decode_start : decode Widths.default (.evt 0b00000000000000000001010101111100_00000_011) = .ok (.start 5500) := by
  decide
theorem test_decode_readReq : decode Widths.default (.evt 0b00000000000001100001101010000000_00000_100) = .ok (.readReq 400000) := by
  decide
theorem test_decode_poll : decode Widths.default (.evt 0b00000000000000010101111110010000_00000_101) = .ok (.poll 90000) := by
  decide
theorem test_decode_getField : decode Widths.default (.evt 0b00000000000000000000000000000001_00_011_110) = .ok (.getField 3#3 1) := by
  decide
theorem test_decode_assemble : decode Widths.default (.stg 0b000#3) = .ok .assemble := by decide
theorem test_decode_sync : decode Widths.default (.stg 0b001#3) = .ok .sync := by decide
theorem test_decode_trim : decode Widths.default (.stg 0b010#3) = .ok .trim := by decide
theorem test_decode_chkdev : decode Widths.default (.stg 0b011#3) = .ok .chkdev := by decide
theorem test_decode_chkcrc : decode Widths.default (.stg 0b100#3) = .ok .chkcrc := by decide
theorem test_decode_commit : decode Widths.default (.stg 0b101#3) = .ok .commit := by decide
theorem test_decode_sw : decode Widths.default (.pc 0b000_1#4) = .ok (.sw true) := by decide
theorem test_decode_dw : decode Widths.default (.pc 0b001_0#4) = .ok (.dw false) := by decide
theorem test_decode_sh : decode Widths.default (.pc 0b010_1#4) = .ok (.sh true) := by decide
theorem test_decode_bt : decode Widths.default (.pc 0b011_0#4) = .ok (.bt false) := by decide
theorem test_decode_ld : decode Widths.default (.pc 0b100_1#4) = .ok (.ld true) := by decide
theorem test_decode_lt : decode Widths.default (.pc 0b101_0#4) = .ok (.lt false) := by decide
theorem test_decode_refuses_stray_bits :
    decode Widths.default (.evt 0b10000_011) = .error .strayOperandBits := by decide
/-- START 65536 fits a 17-bit timestamp and not a 16-bit one (00_scope.md R6, 46_sequencer.md R230). -/
theorem test_decode_refuses_a_wide_now :
    decode { Widths.default with time := 17 } (.evt 0b10000000000000000_00000_011) = .ok (.start 65536) ∧
    decode { Widths.default with time := 16 } (.evt 0b10000000000000000_00000_011) = .error .operandOutOfRange := by
  decide
theorem test_tableWord : decodeTableWord 8 3 = some (.start 0) ∧ decodeTableWord 8 0 = none := by decide

/-- A table word placed for the fetch is the next event: START after reset is refused while unconfigured (R221). -/
theorem test_withFetchWord :
    refusalOf (step (State.reset.withFetchWord 8 3)) = some .notConfigured ∧
    after (step (State.reset.withFetchWord 8 5)) = some State.reset := by decide

/-- The notation of 30_encoding.md R107. -/
theorem test_text : (Instr.edge true 7000).text = "EDGE 1 7000" ∧ (Instr.dw true).text = "DW1" := by decide

/-! ### EDGE (V20 to V37) -/

theorem test_classify : [0, 799, 800, 1200, 1201, 1599, 1600, 2400, 2401, 3199, 3200, 4294967295].map
      (fun d => classify d DeviceProfile.tp2) =
    [.sh, .sh, .sw, .sw, .bt, .bt, .dw, .dw, .ld, .ld, .lt, .lt] := by decide

/-- V32 -/
def v32 : State := { withP DeviceProfile.tp2 with lastEdgeTime := 6000, armed := true, outstanding := true, wr := 3 }

theorem test_edge_stores : (after (exec (.edge true 7000) v32)).map
    (fun t => (t.readCode 3, t.wr, t.armed, t.lastEdgeTime)) = some (1#4, 4, true, 7000) := by decide

/-- V34, V35: the full buffer disarms, and the interval is taken across a wrap of the counter. -/
def v34 : State :=
  { withP DeviceProfile.tp0 with lastEdgeTime := 3100, armed := true, outstanding := true, wr := 3 }

theorem test_edge_fills : (after (exec (.edge false 5100) v34)).map
    (fun t => (t.readCode 3, t.wr, t.armed)) = some (2#4, 4, false) ∧
    interval 32 704 4294967000 = 1000 ∧ interval 16 704 64536 = 1704 := by decide

/-! ### CONFIG, START, READ_REQ, POLL -/

theorem test_config : (after (exec (.config 2#2 9 1#2) State.reset)).map
    (fun t => (t.configured, t.model, t.pin, t.pinmode, t.wr)) = some (true, 2#2, 9, 1#2, 0) := by decide
theorem test_config_refused : refusalOf (exec (.config 2#2 0 3#2) State.reset) = some .reservedPinmode ∧
    refusalOf (exec (.config 2#2 0 0#2) v32) = some .configWhileArmed := by decide

/-- `2 * 1600 < 2^12` and not below `2^11` (00_scope.md R8). -/
theorem test_wellFormed_needs_the_width :
    DeviceProfile.tp2.wellFormed 12 = true ∧ DeviceProfile.tp2.wellFormed 11 = false := by decide

theorem test_start : (after (exec (.start 5500) (withP DeviceProfile.tp2))).map
    (fun t => (t.phase, t.armTime, t.armed, t.wr)) = some (.armed, 5500, true, 0) := by decide

/-- V18, program G5: reported once at T_NODATA, then suppressed until READ_REQ. -/
def waiting : State := { withP DeviceProfile.tp0 with armed := true, outstanding := true, armTime := 1000 }

theorem test_poll_guard : after (exec (.poll 100999) waiting) = some waiting ∧
    (after (exec (.poll 101000) waiting)).map (fun t => (t.phase, t.status, t.suppress, t.outs)) =
      some (.aborted, .captureTimeout, true, [.report .captureTimeout]) := by decide

def suppressed : State :=
  { withP DeviceProfile.tp0 with suppress := true, status := .captureTimeout, res := .aborted }

theorem test_readReq : after (exec (.start 5) suppressed) = some suppressed ∧
    (after (exec (.readReq 5) suppressed)).map (fun t => (t.phase, t.suppress, t.status)) =
      some (.armed, false, .none) := by decide

/-! ### GET_FIELD (V100 to V112) -/

theorem test_sensor_values : [0x0000#16, 0x20EA#16, 0xAFCE#16, 0xA001#16, 0x61F4#16, 0x3019#16, 0x9000#16, 0xF4D7#16,
      0x8001#16].map (sensorResult TagMap.default) =
    [.decodeFailure .fieldNotPopulated, .sensorReading (.temperature 234), .sensorReading (.temperature (-50)),
     .sensorReading (.temperature (-4095)), .sensorReading (.rays 500), .sensorReading (.volumeFlow 100),
     .sensorReading (.digital true), .sensorReading (.room 215 .lower), .decodeFailure .fieldNotPopulated] ∧
    signedValue 0x8001#16 = -4095 := by decide

/-- Program G7's first sensor, read through the machine, and V107 to V111. -/
theorem test_getField : answerOf (withFrame fieldProfile [0x30, 0xEA, 0x20, 0xCE, 0xAF, 0, 0]) 0#3 0 =
      some [.field (.sensorReading (.temperature 234))] ∧
    answerOf (withFrame fieldProfile [0x30, 0x05, 0x64, 0, 0, 0, 0]) 1#3 2 = some [.field (.outputBit true)] ∧
    answerOf (withFrame fieldProfile [0x30, 0x7E, 0x64, 0, 0, 0, 0]) 2#3 0 = some [.field (.speedStep 30)] ∧
    answerOf (withFrame fieldProfile [0x30, 0x7E, 0x64, 0, 0, 0, 0]) 3#3 0 = some [.field (.analogValue 100)] ∧
    answerOf (withFrame fieldProfile [0x30, 0x9E, 0xE4, 0, 0, 0, 0]) 6#3 0 =
      some [.field (.decodeFailure .fieldOutOfRange)] := by decide

/-! ### PulseCodes (V1, V2, V40 to V52) -/

theorem test_sw : (after (exec (.sw true) { withP DeviceProfile.tp0 with hc := 1 })).map
    (fun t => (t.readBit 0, t.hc, t.pos)) = some (true, 2, 1) := by decide
theorem test_dw : (after (exec (.dw false) (withP DeviceProfile.tp0))).map
    (fun t => (t.readBit 0, t.hc)) = some (false, 2) := by decide
theorem test_sh : (after (exec (.sh true) { withP DeviceProfile.tp0 with pos := 1 })).map
    (fun t => (t.ac, t.hc, t.result)) = some (1, 0, none) := by decide
theorem test_bt : (after (exec (.bt true) (withP DeviceProfile.tp0))).map (fun t => (t.ac, t.pos)) = some (0, 1) := by
  decide
theorem test_ld : (after (exec (.ld true) { withP DeviceProfile.tp0 with pos := 1, ac := 4 })).map
    (fun t => (t.ac, t.pos, t.result)) = some (5, 1, some .anomalyOverrun) := by decide
theorem test_lt : (after (exec (.lt true) { withCodes [3#4, 11#4] with pos := 1 })).map
    (fun t => (t.readBit 0, t.hc, t.ac)) = some (true, 2, 0) := by decide

/-! ### ASSEMBLE (V40, V41, V47, V49, V50) -/

theorem test_assemble_counts : (after (exec .assemble (withCodes [0, 7, 7, 7, 7, 1, 1, 1]))).map
      (fun t => (t.ac, t.blen, t.bits.map Prod.snd, t.result)) = some (4, 2, [true, true], none) ∧
    (after (exec .assemble (withCodes [0, 7, 7, 7, 7, 7, 1, 1]))).map (fun t => (t.ac, t.pos, t.result)) =
      some (5, 5, some .anomalyOverrun) := by decide

theorem test_assemble_merges : (after (exec .assemble (withCodes [0, 3, 10, 1]))).map
      (fun t => (t.hc, t.ac, t.bits.map Prod.snd)) = some (6, 0, [false, false, true]) ∧
    (after (exec .assemble (withCodes [0, 2, 10, 1]))).map (fun t => (t.hc, t.ac, t.bits.map Prod.snd)) =
      some (4, 1, [true, true]) ∧
    (after (exec .assemble (withCodes [11, 4, 4, 4, 4, 0, 1]))).map (fun t => (t.hc, t.ac, t.bits.map Prod.snd)) =
      some (3, 4, [false]) := by decide

/-! ### SYNC (V62, V64, V66, V67, V69) -/

def syncOf (l : List Bool) : Option (Option CycleFailure × Bool × Nat × Nat) :=
  (after (exec .sync (withBits l))).map fun t => (t.result, t.inverted, t.syncPos, t.start)

theorem test_sync : syncOf (ones 16 ++ zeros 10) = some (none, false, 0, 16) ∧
    syncOf (zeros 16 ++ [true] ++ zeros 9) = some (none, true, 0, 16) ∧
    syncOf (zeros 16 ++ ones 16 ++ zeros 10) = some (none, false, 16, 32) := by decide
theorem test_sync_fails : syncOf (ones 16 ++ zeros 9) = some (some .frameTooShort, false, 0, 16) ∧
    (after (exec .sync (withBits (ones 15)))).map State.result = some (some .noFrame) := by decide

/-! ### TRIM (V83), CHKDEV (V86, V87), CHKCRC (V90, V91), COMMIT -/

theorem test_trim : (after (exec .trim { withBits
      [true, true, true, false, false, false, false, false, true, true, false, false, true,
       true, true, false, false, false, false, false, false, false, false] with start := 3 })).map State.frame =
    some (space [0x30#8, 0x01#8]) := by decide

theorem test_chkdev : (after (exec .chkdev (withFrame DeviceProfile.tp2 [0x31, 0x30]))).map State.result =
      some (some .deviceMismatch) ∧
    (after (exec .chkdev (withFrame { DeviceProfile.tp2 with id1 := some 0x11 } [0x30, 0x11]))).map State.result =
      some none := by decide

theorem test_chkcrc :
    (after (exec .chkcrc (withFrame { DeviceProfile.tp2 with len := 4, crcIdx := 3 } [0x90, 0x9F, 0xFF, 0x2E]))).map
      State.result = some none ∧
    (after (exec .chkcrc (withFrame { DeviceProfile.tp2 with len := 4, crcIdx := 3 } [0x90, 0x9E, 0xFF, 0x2E]))).map
      State.result = some (some .checksumMismatch) := by decide

theorem test_commit : (after (exec .commit (withP DeviceProfile.tp2))).map (fun t => (t.valid, t.phase, t.outs)) =
    some (true, .decoded, []) := by decide

/-! ### States that meet the invariant -/

/-- The invariant as something to compute on a concrete state. -/
def InvCheck (s : State) : Prop :=
  ((s.armed = true → s.outstanding = true ∧ s.configured = true ∧ s.suppress = false ∧ s.wr < s.profile.cap) ∧
    (s.outstanding = true → s.armed = false → s.wr = s.profile.cap) ∧
    (s.configured = true → s.wr ≤ s.profile.cap)) ∧
  ((s.valid = true → s.res = .decoded ∧ s.outstanding = false ∧ s.status = .none) ∧
    (s.suppress = true → s.armed = false ∧ s.outstanding = false ∧ s.status = .captureTimeout ∧ s.res = .aborted) ∧
    (s.outstanding = true → s.configured = true)) ∧
  ((s.configured = true → s.profile.wellFormed s.par.widths.time = true ∧ s.pinmode ≠ 3#2) ∧
    ((List.range s.wr).all fun i => (s.buf.find i).any fun c => (decodeClass (codeClass c)).isSome) = true) ∧
  ((s.valid = true → s.configured = true ∧ devOk s.profile s.readFrame = true ∧ crcOk s.profile s.readFrame = true ∧
      ((List.range s.profile.len).all fun k => (s.frame.find k).isSome) = true) ∧
    (s.status ≠ .fieldOutOfRange ∧ s.status ≠ .fieldNotPopulated) ∧
    (s.outstanding = false → s.res = .decoded → s.valid = true) ∧ s.spacesWf = true) ∧
  s.lastEdgeTime < 2 ^ s.par.widths.time ∧ s.armTime < 2 ^ s.par.widths.time ∧ s.pin < 2 ^ s.par.widths.pin

theorem inv_of_check {s : State} (h : InvCheck s) : s.Inv := by
  obtain ⟨⟨h1, h2, h3⟩, ⟨h4, h5, h6⟩, ⟨h7, h8⟩, ⟨h9, h10, h11, h12⟩, h13⟩ := h
  refine ⟨h1, h2, h3, h4, h5, h6, h7, fun i hi => ?_, fun hv => ?_, h10, h11, h13, h12⟩
  · have hc := List.all_eq_true.1 h8 i (List.mem_range.2 hi)
    cases hf : s.buf.find i with
    | none => simp [hf] at hc
    | some c =>
      refine ⟨c, rfl, fun hn => ?_⟩
      simp [hf, hn] at hc
  · obtain ⟨a, b, c, d⟩ := h9 hv
    exact ⟨a, b, c, fun k hk => Option.isSome_iff_exists.1 (List.all_eq_true.1 d k (List.mem_range.2 hk))⟩

/-- Two of four slots stored: the phase is Capturing. -/
def capturing : State :=
  { withP DeviceProfile.tp0 with
    armed := true, outstanding := true, armTime := 1000, lastEdgeTime := 3000, wr := 2, buf := space [11#4, 0#4] }

/-- All four slots stored: the phase is CaptureComplete. -/
def complete : State :=
  { withP DeviceProfile.tp0 with outstanding := true, wr := 4, buf := space [11#4, 0#4, 1#4, 2#4] }

/-- A decoded frame of TP2 (program G1's frame). -/
def decoded : State := withFrame DeviceProfile.tp2 [0x30, 0x30]

theorem reset_inv : State.reset.Inv := by
  refine inv_of_check ?_
  unfold InvCheck
  decide
theorem waiting_inv : waiting.Inv := by
  refine inv_of_check ?_
  unfold InvCheck
  decide
theorem capturing_inv : capturing.Inv := by
  refine inv_of_check ?_
  unfold InvCheck
  decide
theorem complete_inv : complete.Inv := by
  refine inv_of_check ?_
  unfold InvCheck
  decide
theorem suppressed_inv : suppressed.Inv := by
  refine inv_of_check ?_
  unfold InvCheck
  decide
theorem decoded_inv : decoded.Inv := by
  refine inv_of_check ?_
  unfold InvCheck
  decide

/-! ### Witnesses: events, encoding, reset -/

theorem witness_StepRunsTheDecodedEvent :
    State.reset.inbox = [] ∧ (State.reset.withFetchWord 8 3).inbox = 3 :: [] ∧
    decode Widths.default (.evt 3) = .ok (.start 0) ∧ (State.reset.withFetchWord 8 0).inbox = 0 :: [] ∧
    decode Widths.default (.evt 0) = .error (.reservedEvent 0) := by decide

theorem witness_DecodeOfEncodeIsIdentity : (Instr.config 3#2 4294967295 3#2).wellFormed Widths.default = true := by decide

theorem witness_EncodeOfDecodeIsIdentity :
    decode Widths.default (.evt 0xFFFFFFFF7A) = .ok (.config 3#2 4294967295 3#2) := by decide

theorem witness_ReservedCodesAreRefused :
    (State.reset.withFetchWord 8 0).inbox = 0 :: [] ∧ 0 % 8 = 0 ∧
    (State.reset.withFetchWord 8 15).inbox = 15 :: [] ∧ 15 % 8 = 7 ∧
    (isEvent (.poll 4294967296) ∧ (Instr.poll 4294967296).wellFormed Widths.default = false) ∧
    codeClass 12#4 = 6#3 ∧ codeClass 15#4 = 7#3 ∧
    (withCodes [13#4]).configured = true ∧ 1 ≤ (withCodes [13#4]).profile.cap ∧
    codeClass ((withCodes [13#4]).readCode 0) = 6#3 := by
  refine ⟨by decide, by decide, by decide, by decide, ⟨rfl, by decide⟩, by decide, by decide, by decide, by decide,
    by decide⟩

theorem witness_EveryResetStateMeetsTheInvariant :
    { State.reset with armTime := 5, blen := 9, model := 3#2, frame := space [1#8] }.IsReset :=
  ⟨rfl, rfl, rfl, rfl, rfl, rfl, rfl, rfl, by decide, by decide, rfl⟩

/-! ### Witnesses: EDGE, PulseCodes, ASSEMBLE -/

theorem witness_EdgeWhileUnarmedMovesOnlyTheTimestamp : complete.armed = false := by decide

/-- Not filling and filling: `wr = 3` of 72 and of 4. -/
theorem witness_EdgeWhileArmedAppendsTheClassifiedCode :
    (v32.armed = true ∧ v32.configured = true ∧ v32.wr < v32.profile.cap ∧ v32.wr + 1 ≠ v32.profile.cap) ∧
    (v34.armed = true ∧ v34.configured = true ∧ v34.wr < v34.profile.cap ∧ v34.wr + 1 = v34.profile.cap) := by decide

theorem witness_ClassifyIsThePartition :
    DeviceProfile.tp2.wellFormed 32 = true ∧ { DeviceProfile.tp2 with maxDouble := 5000 }.wellFormed 32 = true := by decide

/-- The last half-bit that fits. -/
theorem witness_SwEmitsItsLevel :
    ({ withP DeviceProfile.tp0 with hc := 7 } : State).configured = true ∧
    ({ withP DeviceProfile.tp0 with hc := 7 } : State).hc < 2 * ({ withP DeviceProfile.tp0 with hc := 7 } : State).profile.cap := by
  decide

theorem witness_DwEmitsComplementThenLevel :
    ({ withP DeviceProfile.tp0 with hc := 6 } : State).configured = true ∧
    ({ withP DeviceProfile.tp0 with hc := 6 } : State).hc + 1 <
      2 * ({ withP DeviceProfile.tp0 with hc := 6 } : State).profile.cap := by
  decide

theorem witness_AnomaliesCountAndTheFifthAborts :
    (Instr.bt true = .sh true ∨ Instr.bt true = .bt true ∨ Instr.bt true = .ld true) ∧
    State.reset.pos = 0 ∧
    (({ State.reset with pos := 1, ac := 3 } : State).pos ≠ 0 ∧ ({ State.reset with pos := 1, ac := 3 } : State).ac < 4) ∧
    (({ State.reset with pos := 1, ac := 4 } : State).pos ≠ 0 ∧
      4 ≤ ({ State.reset with pos := 1, ac := 4 } : State).ac) := by decide

/-- A merge at slot 1, a seed, no seed, and a count after DW0 with 3 and with 4 counted before. -/
theorem witness_LtMergesSeedsOrCounts :
    (let s := { withCodes [3#4, 11#4] with pos := 1 }
     s.pos ≠ 0 ∧ s.readCode (s.pos - 1) = composeCode .dw true ∧ s.configured = true ∧ s.hc + 1 < 2 * s.profile.cap) ∧
    (let s := withCodes [11#4]
     s.pos = 0 ∧ s.par.seedEmit = true ∧ s.configured = true ∧ s.hc < 2 * s.profile.cap) ∧
    (let s := { State.reset with par := { Params.default with seedEmit := false } }
     s.pos = 0 ∧ s.par.seedEmit = false) ∧
    (let s := { withCodes [2#4, 11#4] with pos := 1, ac := 3 }
     s.pos ≠ 0 ∧ s.readCode (s.pos - 1) ≠ composeCode .dw true ∧ s.ac < 4) ∧
    (let s := { withCodes [2#4, 11#4] with pos := 1, ac := 4 }
     s.pos ≠ 0 ∧ s.readCode (s.pos - 1) ≠ composeCode .dw true ∧ 4 ≤ s.ac) := by decide

theorem witness_AssembleRunsEachSlotsPulseCode : (withCodes [0, 3, 10, 1]).configured = true := by decide

/-- Each of the three ways the list function can end. -/
theorem witness_AssembleMatchesTheListFunction :
    (withCodes [0, 3, 10, 1]).configured = true ∧
    streamView true 0 0#4 0 (withCodes [0, 3, 10, 1]).codes = .done [false, false, true, false, true, true] 0 ∧
    streamView true 0 0#4 0 (withCodes [0, 7, 7, 7, 7, 7]).codes = .overrun ∧
    streamView true 0 0#4 0 (withCodes [0, 12]).codes = .reserved := by decide

/-- Four and five counted anomalies. -/
theorem witness_FourAnomaliesPassTheFifthAborts :
    (let s := withCodes [0, 7, 7, 7, 7]
     s.configured = true ∧ (∀ i, i < s.profile.cap → decodeClass (codeClass (s.readCode i)) ≠ none) ∧
      countedAnomalies s.par.seedEmit 0 0#4 s.codes = 4) ∧
    (let s := withCodes [0, 7, 7, 7, 7, 7]
     s.configured = true ∧ (∀ i, i < s.profile.cap → decodeClass (codeClass (s.readCode i)) ≠ none) ∧
      countedAnomalies s.par.seedEmit 0 0#4 s.codes = 5) := by decide

/-- A line that ends in a run of one and one that ends in a run of two. -/
theorem witness_LineCodeIsRecovered :
    (let s := withCodes [0, 1, 2, 1, 0]
     s.configured = true ∧ s.codes = codesFrom true 1 [false, true, true, false, true, false] ∧
      runsAtMostTwo true 1 [false, true, true, false, true, false] = true ∧
      endsRepeated true [false, true, true, false, true, false] = false) ∧
    (let s := withCodes [2, 3]
     s.configured = true ∧ s.codes = codesFrom true 1 [true, false, false, true, true] ∧
      runsAtMostTwo true 1 [true, false, false, true, true] = true ∧
      endsRepeated true [true, false, false, true, true] = true) := by decide

/-! ### Witnesses: SYNC, TRIM, the round trip -/

theorem witness_SyncTakesTheFirstRun :
    let s := withBits (zeros 1 ++ ones 17 ++ zeros 10)
    s.configured = true ∧ s.blen ≤ s.profile.cap ∧ FirstRunAt s.readBit s.blen 1 :=
  ⟨by decide, by decide, scan16_eq_some.1 (by decide)⟩

theorem witness_SyncRetriesOnTheComplement :
    let s := withBits (zeros 16 ++ ones 1 ++ zeros 9)
    s.configured = true ∧ s.blen ≤ s.profile.cap ∧ (∀ r, ¬ RunAt s.readBit s.blen r) ∧
      FirstRunAt (fun k => !s.readBit k) s.blen 0 :=
  ⟨by decide, by decide, scan16_eq_none.1 (by decide), scan16_eq_some.1 (by decide)⟩

/-- Fifteen ones, and a stream with both levels that has no run either way. -/
theorem witness_SyncWithoutARunIsNoFrame :
    (let s := withBits (ones 15)
     s.configured = true ∧ s.blen ≤ s.profile.cap ∧ s.blen < 16) ∧
    (let s := withBits (ones 15 ++ zeros 1 ++ ones 15)
     s.configured = true ∧ s.blen ≤ s.profile.cap ∧ (∀ r, ¬ RunAt s.readBit s.blen r) ∧
      ∀ r, ¬ RunAt (fun k => !s.readBit k) s.blen r) :=
  ⟨by decide, by decide, by decide, scan16_eq_none.1 (by decide), scan16_eq_none.1 (by decide)⟩

/-- The last stop bit missing: the highest index read is the last one (V84). -/
theorem witness_TrimPacksTheDataBits :
    let s := { withP DeviceProfile.tp0 with blen := 9 }
    s.configured = true ∧ s.start + 10 * s.profile.len < s.blen + 2 := by decide

/-- The end of an earlier telegram, then TELEGRAM(0x30), as a BitStream. -/
def telegramStream : State :=
  { withP { DeviceProfile.tp0 with cap := 40 } with
    bits := space (ones 2 ++ telegram [0x30#8] ++ zeros 1)
    blen := (ones 2 ++ telegram [0x30#8] ++ zeros 1).length }

theorem witness_TelegramsRoundTrip :
    telegramStream.configured = true ∧ telegramStream.blen ≤ telegramStream.profile.cap ∧
    [0x30#8] ≠ ([] : List Byte) ∧ [0x30#8].length = telegramStream.profile.len ∧
    telegramStream.profile.minBits ≤ 10 * telegramStream.profile.len + (zeros 1).length ∧
    telegramStream.holdsBits (ones 2 ++ telegram [0x30#8] ++ zeros 1) ∧
    (∀ q, ¬ RunAt (fun k => (ones 2).getD k false) (ones 2).length q) :=
  ⟨by decide, by decide, by decide, by decide, by decide, ⟨rfl, by decide⟩, scan16_eq_none.1 (by decide)⟩

/-- The complement of TELEGRAM(0x30), 26 bits. -/
theorem witness_ComplementOfATelegramHasNoRun :
    let s := withBits ((telegram [0x30#8]).map fun b => !b)
    s.configured = true ∧ s.blen ≤ s.profile.cap ∧ s.holdsBits ((telegram [0x30#8]).map fun b => !b) :=
  ⟨by decide, by decide, rfl, by decide⟩

/-! ### Witnesses: the checks and the queries -/

/-- WILDCARD with one byte, and an `id1` with two. -/
theorem witness_ChkdevComparesTheIdentityBytes :
    (let s := withP DeviceProfile.tp0
     s.configured = true ∧ 1 ≤ s.profile.len ∧ (s.profile.id1 ≠ none → 2 ≤ s.profile.len)) ∧
    (let s := withP { DeviceProfile.tp2 with id1 := some 0x11 }
     s.configured = true ∧ 1 ≤ s.profile.len ∧ (s.profile.id1 ≠ none → 2 ≤ s.profile.len)) := by decide

theorem witness_ChkcrcAcceptsIffTheSumMatches :
    ((withP DeviceProfile.tp0).configured = true ∧
      (withP DeviceProfile.tp0).profile.crcIdx < (withP DeviceProfile.tp0).profile.len) ∧
    ((withP DeviceProfile.tp2).configured = true ∧
      (withP DeviceProfile.tp2).profile.crcIdx < (withP DeviceProfile.tp2).profile.len) := by decide

/-- The checksum byte itself changed. -/
theorem witness_OneChangedByteFailsTheChecksum :
    let p := DeviceProfile.tp2
    let f : Nat → Byte := fun _ => 0x30
    let g : Nat → Byte := fun k => if k = 1 then 0x31 else 0x30
    p.crcIdx ≠ 0 ∧ 1 ≤ p.crcIdx ∧ f 1 ≠ g 1 ∧ (∀ k, k ≠ 1 → f k = g k) ∧ crcOk p f = true :=
  ⟨by decide, by decide, by decide, fun k hk => by simp [hk], by decide⟩

theorem witness_QueryWithoutAFrameAnswersTheStatus : suppressed.valid = false := by decide

theorem witness_QueriesChangeNothing :
    (after (exec (.getField 0#3 0) decoded)).isSome = true ∧ (after (exec (.getField 0#3 0) State.reset)).isSome = true := by
  decide

/-- The state of the query witnesses: three sensors, sixteen outputs, one speed and one analog slot. -/
def queried : State := withFrame fieldProfile [0x30, 0xEA, 0x20, 0xCE, 0xAF, 0, 0]

theorem witness_QueriesOutsideTheTableFail :
    queried.valid = true ∧ queried.configured = true ∧ queried.profile.fields.sensorCount ≤ 3 ∧
    8 * queried.profile.fields.outBytes.val ≤ 16 ∧ queried.profile.fields.speedCount ≤ 1 ∧
    queried.profile.fields.analogCount ≤ 1 := by decide

/-- The last sensor index: the field is the frame's last two bytes. -/
theorem witness_SensorQueryDecodesTheRawValue :
    queried.valid = true ∧ queried.configured = true ∧ queried.profile.wellFormed queried.par.widths.time = true ∧
    2 < queried.profile.fields.sensorCount ∧ 5 = queried.profile.fields.sensorBase + 2 * 2 ∧
    0 = (queried.readFrame 6).toNat * 256 + (queried.readFrame 5).toNat ∧
    (0 : Int) = (if 0 < 32768 then ((0 % 4096 : Nat) : Int) else ((0 % 4096 : Nat) : Int) - 4096) := by decide

theorem witness_RoomFieldsIgnoreTheSignBit :
    TagMap.default.get ((0x74D7#16).extractLsb' 12 3) = some .room ∧ 0x74D7#16 ≠ 0#16 ∧
    0x74D7#16 ^^^ 0x8000#16 ≠ 0#16 := by decide

/-- One output byte at index 7, and two at index 15. -/
theorem witness_OutputQueryTestsOneBit :
    (let s := withFrame { DeviceProfile.p7 with fields := { FieldTable.empty with outBase := 6, outBytes := 1 } } [0x30]
     s.valid = true ∧ s.configured = true ∧ s.profile.wellFormed s.par.widths.time = true ∧ 6 = s.profile.fields.outBase ∧
      s.profile.fields.outBytes = 1 ∧ 7 < 8) ∧
    (queried.valid = true ∧ queried.configured = true ∧ queried.profile.wellFormed queried.par.widths.time = true ∧
      1 = queried.profile.fields.outBase ∧ queried.profile.fields.outBytes = 2 ∧ 15 < 16) := by decide

theorem witness_SpeedAndAnalogQueriesReadTheLowBits :
    queried.valid = true ∧ queried.configured = true ∧ queried.profile.wellFormed queried.par.widths.time = true ∧
    (0 < queried.profile.fields.speedCount ∧ 0xEA#8 = queried.readFrame (queried.profile.fields.speedBase + 0)) ∧
    (0 < queried.profile.fields.analogCount ∧ 0x20#8 = queried.readFrame (queried.profile.fields.analogBase + 0)) := by
  decide

theorem witness_HeatQueriesAreRefused : queried.valid = true ∧ queried.configured = true := by decide

/-! ### Witnesses: the sequencer -/

theorem witness_ConfigSelectsAProfileOrIsRefused :
    waiting.armed = true ∧ (State.reset.armed = false ∧ (3#2 : BitVec 2) = 3#2) ∧
    (let s := withP { DeviceProfile.tp0 with cap := 0 }
     s.armed = false ∧ (2#2 : BitVec 2) ≠ 3#2 ∧ (s.par.profiles.get 0#2).wellFormed s.par.widths.time = false) ∧
    (State.reset.armed = false ∧ (2#2 : BitVec 2) ≠ 3#2 ∧ (State.reset.par.profiles.get 3#2).wellFormed State.reset.par.widths.time = true) := by
  decide

theorem witness_StartArmsOrHasNoEffect :
    State.reset.configured = false ∧ (suppressed.configured = true ∧ suppressed.suppress = true) ∧
    (capturing.configured = true ∧ capturing.armed = true) ∧
    (complete.configured = true ∧ complete.suppress = false ∧ complete.armed = false) := by decide

theorem witness_ReadReqLiftsTheSuppression :
    State.reset.configured = false ∧ (capturing.configured = true ∧ capturing.armed = true) ∧
    (suppressed.configured = true ∧ suppressed.armed = false) := by decide

/-- One microsecond before the guard and at it. -/
theorem witness_PollWaitsOrTimesOut :
    State.reset.outstanding = false ∧
    (capturing.outstanding = true ∧ capturing.armed = true ∧ capturing.wr ≠ 0) ∧
    (waiting.outstanding = true ∧ waiting.armed = true ∧ waiting.wr = 0 ∧
      interval waiting.par.widths.time 100999 waiting.armTime < waiting.par.tNodata ∧
      waiting.par.tNodata ≤ interval waiting.par.widths.time 101000 waiting.armTime) := by decide

theorem witness_PollRunsTheStagesInOrder : complete.outstanding = true ∧ complete.armed = false := by decide

theorem witness_PollEndsDecodedOrAborted : complete.Inv ∧ complete.captureComplete = true :=
  ⟨complete_inv, by decide⟩

/-- The codes of a telegram on the line, for either polarity, ending with its last half-bit. -/
def lineCodes (pol : Bool) : List PulseCode := codesFrom (!pol) 1 (halves pol (telegram [0x30#8]) ++ [pol])

/-- A complete capture of them. -/
def captured (pol : Bool) : State :=
  { withP { DeviceProfile.tp0 with cap := (lineCodes pol).length } with
    outstanding := true, wr := (lineCodes pol).length, buf := space (lineCodes pol) }

theorem captured_inv (pol : Bool) : (captured pol).Inv := by
  refine inv_of_check ?_
  unfold InvCheck
  cases pol <;> decide

/-- The half-bits of the capture: the telegram's, and one more that ASSEMBLE drops. -/
def capturedHalves (pol : Bool) : List Bool := halves pol (telegram [0x30#8]) ++ [pol]

/-- Both polarities, nothing before the telegram and nothing after it. -/
theorem witness_CapturedTelegramsDecode (pol : Bool) :
    (captured pol).Inv ∧ (captured pol).captureComplete = true ∧
    streamView (captured pol).par.seedEmit 0 0#4 0 (captured pol).codes = .done (capturedHalves pol) 0 ∧
    (keptHalves (capturedHalves pol) =
      if pol then ([] ++ telegram [0x30#8] ++ []).map (fun b => !b) else [] ++ telegram [0x30#8] ++ []) ∧
    (∀ q, ¬ RunAt (fun k => ([] : List Bool).getD k false) ([] : List Bool).length q) ∧
    (pol = true → ∀ q, ¬ RunAt (fun k => (keptHalves (capturedHalves pol)).getD k false)
      (keptHalves (capturedHalves pol)).length q) ∧
    [0x30#8].length = (captured pol).profile.len ∧
    (captured pol).profile.minBits ≤ 10 * (captured pol).profile.len + ([] : List Bool).length ∧
    devOk (captured pol).profile (fun k => [0x30#8].getD k 0#8) = true ∧
    crcOk (captured pol).profile (fun k => [0x30#8].getD k 0#8) = true := by
  refine ⟨captured_inv pol, ?_, ?_, ?_, scan16_eq_none.1 (by decide), ?_, ?_, ?_, ?_, ?_⟩
  · cases pol <;> decide
  · cases pol <;> decide
  · cases pol <;> decide
  · intro h
    subst h
    exact scan16_eq_none.1 (by decide)
  all_goals cases pol <;> decide

/-- The captured telegram through the whole machine, either polarity (program G1's and G2's shape, with one byte). -/
theorem test_captured_telegram (pol : Bool) : (after (exec (.poll 0) (captured pol))).map
    (fun t => (t.phase, t.readFrame 0, t.inverted)) = some (.decoded, 0x30#8, pol) := by
  cases pol <;> decide

theorem witness_TimeoutsAreReportedOnce :
    suppressed.Inv ∧ suppressed.suppress = true ∧
    (∀ i, i ∈ [Instr.edge true 7, .start 8, .poll 9, .getField 0#3 0] →
      isEvent i ∧ (∀ m p q, i ≠ .config m p q) ∧ ∀ now, i ≠ .readReq now) ∧
    (after (runEvents [.edge true 7, .start 8, .poll 9, .getField 0#3 0] suppressed)).isSome = true := by
  refine ⟨suppressed_inv, rfl, ?_, by decide⟩
  intro i hi
  simp only [List.mem_cons, List.not_mem_nil, or_false] at hi
  rcases hi with rfl | rfl | rfl | rfl <;> exact ⟨rfl, by simp, by simp⟩

theorem witness_StalledCapturesMoveOnlyByEdge : capturing.Inv ∧ capturing.phase = .capturing :=
  ⟨capturing_inv, by decide⟩

/-- One state and event for each clause, at `wr + 1 = CAP` and at the guard. -/
theorem witness_PhasesMoveByTheTable :
    (State.reset.Inv ∧ (after (exec (.config 2#2 0 0#2) State.reset)).isSome = true) ∧
    (complete.Inv ∧ (after (exec (.start 1) complete)).map State.phase = some .armed) ∧
    (suppressed.Inv ∧ (after (exec (.readReq 1) suppressed)).map State.phase = some .armed) ∧
    (waiting.Inv ∧ (after (exec (.edge true 1) waiting)).map State.phase = some .capturing) ∧
    (waiting.Inv ∧ (after (exec (.poll 101000) waiting)).map State.phase = some .aborted) ∧
    (complete.Inv ∧ (after (exec (.poll 1) complete)).map State.phase = some .aborted) ∧
    (decoded.Inv ∧ (after (exec (.getField 0#3 0) decoded)).map State.phase = some .decoded) :=
  ⟨⟨reset_inv, by decide⟩, ⟨complete_inv, by decide⟩, ⟨suppressed_inv, by decide⟩, ⟨waiting_inv, by decide⟩,
    ⟨waiting_inv, by decide⟩, ⟨complete_inv, by decide⟩, ⟨decoded_inv, by decide⟩⟩

/-! ### Witnesses: whole-machine rules and stops -/

theorem withFetchWord_inv {s : State} (h : s.Inv) (nbits w : Nat) : (s.withFetchWord nbits w).Inv := by
  obtain ⟨h1, h2, h3, h4, h5, h6, h7, h8, h9, h10, h11, h12, h13⟩ := h
  exact ⟨h1, h2, h3, h4, h5, h6, h7, h8, h9, h10, h11, h12, h13⟩

/-- A POLL that runs the whole of PROCESS. -/
theorem witness_StepsKeepTheInvariant :
    (complete.withFetchWord 8 5).Inv ∧ (after (step (complete.withFetchWord 8 5))).isSome = true :=
  ⟨withFetchWord_inv complete_inv 8 5, by decide⟩

theorem witness_NoStepFaults : (capturing.withFetchWord 8 9).Inv ∧ (after (step (capturing.withFetchWord 8 9))).isSome = true :=
  ⟨withFetchWord_inv capturing_inv 8 9, by decide⟩

/-- One event for each of the four alternatives. -/
theorem witness_EventsAreRefusedOnlyAsTheRulesSay :
    (waiting.Inv ∧ isEvent (.poll 1)) ∧ (State.reset.Inv ∧ isEvent (.readReq 1)) ∧
    (capturing.Inv ∧ isEvent (.config 0#2 0 0#2)) ∧ (decoded.Inv ∧ isEvent (.getField 5#3 0)) :=
  ⟨⟨waiting_inv, rfl⟩, ⟨reset_inv, rfl⟩, ⟨capturing_inv, rfl⟩, ⟨decoded_inv, rfl⟩⟩

theorem witness_OnlyConfigSelectsAProfile :
    (after (exec (.poll 1) complete)).isSome = true ∧ (∀ m p q, Instr.poll 1 ≠ .config m p q) :=
  ⟨by decide, by simp⟩

theorem witness_SpacesStayCanonical :
    complete.spacesWf = true ∧ (after (exec (.poll 1) complete)).isSome = true := by decide

theorem witness_ContextsWriteOnlyTheirState :
    (after (exec (.edge true 1) capturing)).isSome = true ∧
    (complete.armed = false ∧ (after (exec (.start 1) complete)).map State.armed = some true) ∧
    (waiting.armed = true ∧ (after (exec (.poll 101000) waiting)).map State.armed = some false) := by decide

theorem witness_PinAndPinmodeAreNeverRead :
    (after (exec (.start 1) complete)).isSome = true ∧
    exec (.edge true 1) { waiting with wr := 4 } = .fault .pulseSlotOutOfRange ∧
    exec (.start 1) State.reset = .refused .notConfigured := ⟨by decide, rfl, rfl⟩

/-- A capture that goes on, and one that begins. -/
theorem witness_CapturesBeginOnlyWithTheirArmTime :
    (after (exec (.edge true 1) waiting)).map (fun t => (waiting.outstanding, t.outstanding)) = some (true, true) ∧
    (after (exec (.start 1) decoded)).map (fun t => (decoded.outstanding, t.outstanding)) = some (false, true) := by
  decide

theorem witness_FramesBecomeValidOnlyThroughBothChecks :
    isEvent (.poll 0) ∧ (captured true).valid = false ∧
    (after (exec (.poll 0) (captured true))).map State.valid = some true := ⟨rfl, by decide, by decide⟩

/-- Seven bytes, and in every group a field that ends one byte after them. -/
def outsideProfile : DeviceProfile :=
  { DeviceProfile.p7 with
    fields := { FieldTable.empty with
      sensorBase := 6, sensorCount := 1, outBase := 6, outBytes := 2, speedBase := 6, speedCount := 2
      analogBase := 7, analogCount := 1 } }

/-- Each clause at the first value outside its space. -/
theorem witness_AccessesOutsideASpaceFault :
    (let s := { waiting with wr := 4 }
     s.configured = true ∧ s.armed = true ∧ s.profile.cap ≤ s.wr) ∧
    (let s := { withP DeviceProfile.tp0 with hc := 8 }
     s.configured = true ∧ 2 * s.profile.cap ≤ s.hc ∧ s.pos = 0 ∧ s.par.seedEmit = true) ∧
    (let s := { withP DeviceProfile.tp0 with hc := 7 }
     s.configured = true ∧ s.hc + 1 = 2 * s.profile.cap) ∧
    (let s := { withCodes [3#4, 11#4] with pos := 1, hc := 3 }
     s.configured = true ∧ 2 * s.profile.cap ≤ s.hc + 1 ∧ s.afterDw1 = true) ∧
    (let s := { withP DeviceProfile.tp0 with blen := 5 }
     s.configured = true ∧ s.profile.cap < s.blen) ∧
    (let s := { withP DeviceProfile.tp0 with blen := 8 }
     s.configured = true ∧ s.blen + 2 ≤ s.start + 10 * s.profile.len) ∧
    (let s := withP { DeviceProfile.tp0 with len := 0 }
     s.configured = true ∧ s.profile.len = 0) ∧
    (let s := withP { DeviceProfile.tp0 with id1 := some 0x11 }
     s.configured = true ∧ s.profile.id1 ≠ none ∧ s.profile.len = 1) ∧
    (let s := withP { DeviceProfile.tp2 with crcIdx := 2 }
     s.configured = true ∧ s.profile.crcIdx ≠ 0 ∧ s.profile.len ≤ s.profile.crcIdx) ∧
    (let s := withFrame outsideProfile []
     s.configured = true ∧ s.valid = true ∧
      (0 < s.profile.fields.sensorCount ∧ s.profile.len = s.profile.fields.sensorBase + 2 * 0 + 1) ∧
      (15 < 8 * s.profile.fields.outBytes.val ∧
        s.profile.len + 1 = s.profile.fields.outBase + s.profile.fields.outBytes.val) ∧
      (1 < s.profile.fields.speedCount ∧ s.profile.len = s.profile.fields.speedBase + 1) ∧
      (0 < s.profile.fields.analogCount ∧ s.profile.len = s.profile.fields.analogBase + 0)) := by decide

/-- An armed state, a merge form, a seed form, a valid frame and a complete capture, none of them configured. -/
theorem witness_ProfileReadersNeedAConfiguration :
    (let s := { State.reset with armed := true }
     s.configured = false ∧ s.armed = true) ∧
    (let s := { withCodes [3#4, 11#4] with pos := 1, configured := false }
     s.configured = false ∧ s.afterDw1 = true) ∧
    (State.reset.configured = false ∧ State.reset.pos = 0 ∧ State.reset.par.seedEmit = true) ∧
    (let s := { decoded with configured := false }
     s.configured = false ∧ s.valid = true) ∧
    (let s := { complete with configured := false }
     s.configured = false ∧ s.outstanding = true ∧ s.armed = false) := by decide

end Sys2Proof.Tests
end

section
/-!
PROOFS. The scope of the block (00_scope.md): what a step runs, which events are refused, which profiles are well formed.
-/

namespace Sys2Proof.Machine

/-! ### A step -/

theorem step_of_no_event {s : State} (h : s.inbox = []) : step s = .next s := by
  simp only [step, h]

theorem step_of_event {s : State} {w : EventWord} {rest : List EventWord} {i : Instr} (h : s.inbox = w :: rest)
    (hd : decode s.par.widths (.evt w) = .ok i) : step s = exec i { s with inbox := rest } := by
  simp only [step, h, hd]

theorem step_of_undecodable {s : State} {w : EventWord} {rest : List EventWord} {e : DecodeError}
    (h : s.inbox = w :: rest) (hd : decode s.par.widths (.evt w) = .error e) :
    step s = .refused (.undecodable e) := by
  simp only [step, h, hd]

/-- Settles O1: the three branches of `step`. -/
theorem stepRunsTheDecodedEvent : Obligations.StepRunsTheDecodedEvent := fun _ =>
  ⟨step_of_no_event, fun _ _ h => ⟨fun _ => step_of_event h, fun _ => step_of_undecodable h⟩⟩

/-! ### Well-formed profiles -/

theorem idInside_iff (p : DeviceProfile) : p.idInside = true ↔ 1 ≤ p.len ∧ (p.id1 = none ∨ 2 ≤ p.len) := by
  simp only [DeviceProfile.idInside, Bool.and_eq_true, Bool.or_eq_true, decide_eq_true_eq, Option.isNone_iff_eq_none]

theorem fieldsInside_iff (p : DeviceProfile) :
    p.fieldsInside = true ↔
      p.fields.sensorBase + 2 * p.fields.sensorCount ≤ p.len ∧ p.fields.outBase + p.fields.outBytes.val ≤ p.len ∧
      p.fields.speedBase + p.fields.speedCount ≤ p.len ∧ p.fields.analogBase + p.fields.analogCount ≤ p.len := by
  simp only [DeviceProfile.fieldsInside, Bool.and_eq_true, decide_eq_true_eq, and_assoc]

/-- Settles O60: the test of R8, its identity part (`idInside_iff`) and its field-table part (`fieldsInside_iff`). -/
theorem wellFormedProfilesAreTheOnesOfTheRules : Obligations.WellFormedProfilesAreTheOnesOfTheRules := by
  intro W p
  simp only [DeviceProfile.wellFormed, Bool.and_eq_true, decide_eq_true_eq, idInside_iff, fieldsInside_iff, and_assoc]
  -- what is left apart is `Config.byteBits`, which is 10 by definition
  exact Iff.rfl

/-! ### Queries of a well-formed profile stay inside the frame (45_field_decoder.md R196) -/

section Queries

variable {W : Nat} {p : DeviceProfile} (hp : p.wellFormed W = true) (byte : Nat → Byte) (index : Nat)
include hp

theorem sensorField_completes : ∃ r, sensorField p byte index = .next r := by
  obtain ⟨hin, -, -, -⟩ := fields_inside hp
  unfold sensorField
  split
  · rw [if_pos (by omega)]
    exact ⟨_, rfl⟩
  · exact ⟨_, rfl⟩

theorem outputField_completes : ∃ r, outputField p byte index = .next r := by
  obtain ⟨-, hin, -, -⟩ := fields_inside hp
  unfold outputField
  rw [if_pos hin]
  split
  · exact ⟨_, rfl⟩
  · exact ⟨_, rfl⟩

theorem speedField_completes : ∃ r, speedField p byte index = .next r := by
  obtain ⟨-, -, hin, -⟩ := fields_inside hp
  unfold speedField
  split
  · rw [if_pos (by omega)]
    exact ⟨_, rfl⟩
  · exact ⟨_, rfl⟩

theorem analogField_completes : ∃ r, analogField p byte index = .next r := by
  obtain ⟨-, -, -, hin⟩ := fields_inside hp
  unfold analogField
  split
  · rw [if_pos (by omega)]
    exact ⟨_, rfl⟩
  · exact ⟨_, rfl⟩

/-- Only the heat groups have no meaning (45_field_decoder.md R195, R209, R210). -/
theorem groupField_completes_or_heat (group : BitVec 3) :
    (∃ r, groupField p byte group index = .next r) ∨ group = 4#3 ∨ group = 5#3 := by
  unfold groupField
  split
  · exact .inl (sensorField_completes hp byte index)
  · exact .inl (outputField_completes hp byte index)
  · exact .inl (speedField_completes hp byte index)
  · exact .inl (analogField_completes hp byte index)
  · rename_i h4
    exact .inr (.inl (BitVec.eq_of_toNat_eq h4))
  · rename_i h5
    exact .inr (.inr (BitVec.eq_of_toNat_eq h5))
  · exact .inl ⟨_, rfl⟩

end Queries

/-! ### What each event does in a state that meets the invariant -/

/-- The profile under a validated frame is well formed (10_state.md R33, 46_sequencer.md R220). -/
theorem State.Inv.wellFormed_of_valid {s : State} (h : s.Inv) (hv : s.valid = true) :
    s.configured = true ∧ s.profile.wellFormed s.par.widths.time = true := by
  have hc : s.configured = true := (h.checked hv).1
  exact ⟨hc, (h.profile hc).1⟩

/-- A complete capture holds no reserved PulseCode (30_encoding.md R92). -/
theorem State.Inv.complete_slots {s : State} (h : s.Inv) (ho : s.outstanding = true) (ha : s.armed = false) {i : Nat}
    (hi : i < s.profile.cap) : decodeClass (codeClass (s.readCode i)) ≠ none := by
  have hw : s.wr = s.profile.cap := h.complete ho ha
  obtain ⟨c, hfind, hclass⟩ := h.slots i (by omega)
  have hread : s.readCode i = c := by simp only [State.readCode, hfind, Option.getD_some]
  rwa [hread]

/-- EDGE completes: an armed block is configured and has a free slot (10_state.md R37 item 1). -/
theorem execEdge_completes {s : State} (h : s.Inv) (level : Bool) (now : Time) :
    ∃ t, execEdge level now s = .next t := by
  cases ha : s.armed with
  | false => exact ⟨{ s with lastEdgeTime := now }, by simp [execEdge, ha]⟩
  | true =>
    obtain ⟨-, hc, -, hw⟩ := h.armed ha
    exact ⟨_, execEdge_armed level now ha hc hw⟩

/-- POLL completes: where it runs PROCESS, the capture is complete, so no stage leaves its space or meets a reserved
code (46_sequencer.md R225). -/
theorem execPoll_completes {s : State} (h : s.Inv) (now : Time) : ∃ t, execPoll now s = .next t := by
  rcases execPoll_cases now s with ⟨-, e⟩ | ⟨-, -, -, -, e⟩ | ⟨-, -, -, e⟩ | ⟨ho, ha, e⟩
  · exact ⟨_, e⟩
  · exact ⟨_, e⟩
  · exact ⟨_, e⟩
  · have hc : s.configured = true := h.outstandingConfigured ho
    obtain ⟨t, ht, -⟩ := process_next hc (h.profile hc).1 fun _ => h.complete_slots ho ha
    exact ⟨t, e.trans ht⟩

/-- CONFIG completes or meets one of its three refusals (46_sequencer.md R220). -/
theorem execConfig_completes_or_refused (model : BitVec 2) (pin : Nat) (pinmode : BitVec 2) (s : State) :
    (∃ t, execConfig model pin pinmode s = .next t) ∨
    (s.armed = true ∨ pinmode = 3#2 ∨ (s.par.profiles.get model).wellFormed s.par.widths.time = false) := by
  unfold execConfig
  split
  · exact .inr (.inl ‹_›)
  · split
    · exact .inr (.inr (.inl ‹_›))
    · split
      · exact .inl ⟨_, rfl⟩
      · exact .inr (.inr (.inr (eq_false_of_ne_true ‹_›)))

/-- GET_FIELD completes or asks a valid frame for a heat group (45_field_decoder.md R195, R209, R210). -/
theorem execGetField_completes_or_heat {s : State} (h : s.Inv) (group : BitVec 3) (index : Nat) :
    (∃ t, execGetField group index s = .next t) ∨ (s.valid = true ∧ (group = 4#3 ∨ group = 5#3)) := by
  cases hv : s.valid with
  | false => exact .inl ⟨_, by simp only [execGetField, hv]; rfl⟩
  | true =>
    obtain ⟨hc, hp⟩ := h.wellFormed_of_valid hv
    rcases groupField_completes_or_heat hp s.readFrame index group with ⟨r, hr⟩ | hheat
    · exact .inl ⟨s.answer r, by rw [execGetField_valid group index hv hc, hr, andThen_next]⟩
    · exact .inr ⟨rfl, hheat⟩

/-- Settles O51, event by event. -/
theorem eventsAreRefusedOnlyAsTheRulesSay : Obligations.EventsAreRefusedOnlyAsTheRulesSay := by
  intro s i h hevent
  cases i with
  | edge level now => exact .inl (execEdge_completes h level now)
  | config model pin pinmode =>
    rcases execConfig_completes_or_refused model pin pinmode s with hnext | hrefused
    · exact .inl hnext
    · exact .inr (.inr (.inl ⟨model, pin, pinmode, rfl, hrefused⟩))
  | start now =>
    rcases startOp_cases now s with ⟨hc, e⟩ | ⟨-, -, e⟩ | ⟨-, -, -, e⟩
    · exact .inr (.inl ⟨hc, now, .inl rfl, e⟩)
    · exact .inl ⟨_, e⟩
    · exact .inl ⟨_, e⟩
  | readReq now =>
    rcases execReadReq_cases now s with ⟨hc, e⟩ | ⟨-, -, e⟩ | ⟨-, -, e⟩
    · exact .inr (.inl ⟨hc, now, .inr rfl, e⟩)
    · exact .inl ⟨_, e⟩
    · exact .inl ⟨_, e⟩
  | poll now => exact .inl (execPoll_completes h now)
  | getField group index =>
    rcases execGetField_completes_or_heat h group index with hnext | ⟨hv, rfl | rfl⟩
    · exact .inl hnext
    · exact .inr (.inr (.inr ⟨hv, index, .inl rfl⟩))
    · exact .inr (.inr (.inr ⟨hv, index, .inr rfl⟩))
  | assemble | sync | trim | chkdev | chkcrc | commit => cases hevent
  | sw _ | dw _ | sh _ | bt _ | ld _ | lt _ => cases hevent

end Sys2Proof.Machine
end

section
/-!
PROOFS. The invariant of the state (10_state.md R37): reset has it (R41) and every event keeps it, register update by
register update.
-/

namespace Sys2Proof.Machine

/-! ### What POLL, START and READ_REQ leave, and the frame of a whole cycle -/

theorem startOp_eq_next {now : Time} {s t : State} (h : startOp now s = .next t) :
    t = s ∨ (s.configured = true ∧ s.suppress = false ∧ s.armed = false ∧ t = s.arm now) := by
  rcases startOp_cases now s with ⟨-, e⟩ | ⟨-, -, e⟩ | ⟨hc, hs, ha, e⟩ <;> rw [e] at h <;> cases h
  · exact .inl rfl
  · exact .inr ⟨hc, hs, ha, rfl⟩

theorem execReadReq_eq_next {now : Time} {s t : State} (h : execReadReq now s = .next t) :
    t = { s with suppress := false } ∨
    (s.configured = true ∧ s.armed = false ∧ t = State.arm { s with suppress := false } now) := by
  rcases execReadReq_cases now s with ⟨-, e⟩ | ⟨-, -, e⟩ | ⟨hc, ha, e⟩ <;> rw [e] at h <;> cases h
  · exact .inl rfl
  · exact .inr ⟨hc, ha, rfl⟩

theorem execPoll_eq_next {now : Time} {s t : State} (h : execPoll now s = .next t) :
    t = s ∨ t = s.timeout ∨ (s.outstanding = true ∧ s.armed = false ∧ process s = .next t) := by
  rcases execPoll_cases now s with ⟨-, e⟩ | ⟨-, -, -, -, e⟩ | ⟨-, -, -, e⟩ | ⟨ho, ha, e⟩ <;> rw [e] at h
  · cases h
    exact .inl rfl
  · cases h
    exact .inr (.inl rfl)
  · cases h
    exact .inl rfl
  · exact .inr (.inr ⟨ho, ha, h⟩)

/-- What a whole cycle may write: what its stages write, the outcome registers and the outputs, with the capture
consumed (46_sequencer.md R225). -/
def CycleFrame (s t : State) : Prop :=
  t = { s with outstanding := false, valid := t.valid, status := t.status, res := t.res, outs := t.outs
               hc := t.hc, ac := t.ac, bits := t.bits, blen := t.blen, inverted := t.inverted
               syncPos := t.syncPos, start := t.start, frame := t.frame, pos := t.pos, result := t.result
               free := t.free }

theorem CycleEnd.frame {s t : State} (h : CycleEnd { s with outstanding := false } t) : CycleFrame s t := by
  unfold CycleFrame
  rcases h with ⟨u, hw, -, -, rfl⟩ | ⟨u, c, hw, -, rfl⟩ <;> rw [hw] <;> rfl

/-- What a completed cycle stored in the outcome registers: Decoded with both checks passed, or one cycle failure
(46_sequencer.md R225, R227, 60_exceptions.md R256). -/
theorem CycleEnd.outcome {s t : State} (h : CycleEnd s t) :
    (t.valid = true ∧ t.status = .none ∧ t.res = .decoded ∧ devOk t.profile t.readFrame = true ∧
      crcOk t.profile t.readFrame = true) ∨
    (t.valid = false ∧ t.res = .aborted ∧ ∃ c : CycleFailure, t.status = c.status) := by
  rcases h with ⟨u, -, hdev, hcrc, rfl⟩ | ⟨u, c, -, -, rfl⟩
  · exact .inl ⟨rfl, rfl, rfl, hdev, hcrc⟩
  · exact .inr ⟨rfl, rfl, c, rfl⟩

/-- A cycle failure is none of the field-level codes (30_encoding.md R103, 10_state.md R34). -/
theorem CycleFailure.status_not_field (c : CycleFailure) :
    c.status ≠ .fieldOutOfRange ∧ c.status ≠ .fieldNotPopulated := by
  cases c <;> exact ⟨Status.noConfusion, Status.noConfusion⟩

theorem State.spacesWf_iff (s : State) :
    s.spacesWf = true ↔ s.buf.wf = true ∧ s.bits.wf = true ∧ s.frame.wf = true := by
  simp only [State.spacesWf, Bool.and_eq_true, and_assoc]

/-! ### The invariant, register update by register update -/

theorem State.Inv.of_reset {s : State} (h : s.IsReset) : s.Inv where
  armed ha := by simp [h.armed] at ha
  complete ho := by simp [h.outstanding] at ho
  wrBound hc := by simp [h.configured] at hc
  valid hv := by simp [h.valid] at hv
  suppress hs := by simp [h.suppress] at hs
  outstandingConfigured ho := by simp [h.outstanding] at ho
  profile hc := by simp [h.configured] at hc
  slots i hi := by simp [h.wr] at hi
  checked hv := by simp [h.valid] at hv
  statusCycle := by simp [h.status]
  decoded _ hr := by simp [h.res] at hr
  widths := h.widths
  spaces := h.spaces

/-- No rule of the invariant speaks of the pending events. -/
theorem State.Inv.with_inbox {s : State} (h : s.Inv) (rest : List EventWord) : State.Inv { s with inbox := rest } :=
  { h with }

/-- No rule of the invariant speaks of the outputs. -/
theorem State.Inv.answer {s : State} (h : s.Inv) (r : FieldResult) : (s.answer r).Inv := { h with }

theorem State.Inv.with_lastEdgeTime {s : State} (h : s.Inv) {now : Time} (hnow : now < 2 ^ s.par.widths.time) :
    State.Inv { s with lastEdgeTime := now } :=
  { h with widths := ⟨hnow, h.widths.2⟩ }

theorem State.Inv.unsuppressed {s : State} (h : s.Inv) : State.Inv { s with suppress := false } :=
  { h with
    armed := fun ha => by
      obtain ⟨ho, hc, -, hw⟩ := h.armed ha
      exact ⟨ho, hc, rfl, hw⟩
    suppress := Bool.noConfusion }

/-- A class the classifier composes is not reserved (40_edge_sampler.md R125, 30_encoding.md R92). -/
theorem decodeClass_composeCode (c : PulseClass) (l : Bool) : decodeClass (codeClass (composeCode c l)) = some c := by
  rw [(composeCode_fields c l).1]
  cases c <;> rfl

/-- EDGE on an armed block: the slot below the new `wr` holds a code, and `armed` falls exactly when the buffer is full
(40_edge_sampler.md R126). -/
theorem State.Inv.storeCode {s : State} (h : s.Inv) (ha : s.armed = true) (cls : PulseClass) (level : Bool) :
    (s.storeCode s.profile.cap (composeCode cls level)).Inv := by
  obtain ⟨ho, hc, hs, hw⟩ := h.armed ha
  exact {
    armed := fun hr => by
      simp only [State.storeCode_armed, Bool.and_eq_true, Bool.not_eq_true', decide_eq_false_iff_not] at hr
      exact ⟨ho, hc, hs, show s.wr + 1 < s.profile.cap by omega⟩
    complete := fun _ hr => by
      simp only [State.storeCode_armed, ha, Bool.true_and, Bool.not_eq_false', decide_eq_true_eq] at hr
      exact hr
    wrBound := fun _ => hw
    valid := h.valid
    suppress := fun hs' => by simp [hs] at hs'
    outstandingConfigured := h.outstandingConfigured
    profile := h.profile
    slots := fun i hi => by
      rw [State.storeCode_buf, Memory.find_write]
      split
      · exact ⟨_, rfl, by simp only [decodeClass_composeCode, ne_eq, reduceCtorEq, not_false_eq_true]⟩
      · exact h.slots i (by rw [State.storeCode_wr] at hi; omega)
    checked := h.checked
    statusCycle := h.statusCycle
    decoded := h.decoded
    widths := h.widths
    spaces := by
      obtain ⟨hbuf, hbits, hframe⟩ := s.spacesWf_iff.1 h.spaces
      exact (State.spacesWf_iff _).2 ⟨Memory.wf_write _ _ hbuf, hbits, hframe⟩ }

/-- CONFIG on an unarmed block (46_sequencer.md R220). -/
theorem State.Inv.configure {s : State} (h : s.Inv) (ha : s.armed = false) {model : BitVec 2} {pin : Nat}
    {pinmode : BitVec 2} (hmode : pinmode ≠ 3#2)
    (hp : (s.par.profiles.get model).wellFormed s.par.widths.time = true) (hpin : pin < 2 ^ s.par.widths.pin) :
    (s.configure model pin pinmode).Inv where
  armed ha' := by simp [ha] at ha'
  complete := Bool.noConfusion
  wrBound _ := Nat.zero_le _
  valid := Bool.noConfusion
  suppress := Bool.noConfusion
  outstandingConfigured := Bool.noConfusion
  profile _ := ⟨hp, hmode⟩
  slots i hi := absurd hi (Nat.not_lt_zero i)
  checked := Bool.noConfusion
  statusCycle := ⟨Status.noConfusion, Status.noConfusion⟩
  decoded _ := Res.noConfusion
  widths := by
    obtain ⟨hedge, harm, -⟩ := h.widths
    exact ⟨hedge, harm, hpin⟩
  spaces := h.spaces

/-- A well-formed profile has room for a PulseCode (00_scope.md R8). -/
theorem cap_pos_of_wellFormed {W : Nat} {p : DeviceProfile} (hp : p.wellFormed W = true) : 0 < p.cap := by
  simp only [DeviceProfile.wellFormed, Bool.and_eq_true, decide_eq_true_eq] at hp
  omega

/-- The effective START (46_sequencer.md R221). -/
theorem State.Inv.arm {s : State} (h : s.Inv) (hc : s.configured = true) (hs : s.suppress = false) {now : Time}
    (hnow : now < 2 ^ s.par.widths.time) : (s.arm now).Inv where
  armed _ := ⟨rfl, hc, hs, cap_pos_of_wellFormed (h.profile hc).1⟩
  complete _ := Bool.noConfusion
  wrBound _ := Nat.zero_le _
  valid := Bool.noConfusion
  suppress hs' := by simp [hs] at hs'
  outstandingConfigured _ := hc
  profile := h.profile
  slots i hi := absurd hi (Nat.not_lt_zero i)
  checked := Bool.noConfusion
  statusCycle := ⟨Status.noConfusion, Status.noConfusion⟩
  decoded := Bool.noConfusion
  widths := by
    obtain ⟨hedge, -, hpin⟩ := h.widths
    exact ⟨hedge, hnow, hpin⟩
  spaces := h.spaces

/-- TIMEOUT (46_sequencer.md R224). -/
theorem State.Inv.timeout {s : State} (h : s.Inv) : s.timeout.Inv :=
  { h with
    armed := Bool.noConfusion
    complete := Bool.noConfusion
    valid := Bool.noConfusion
    suppress := fun _ => ⟨rfl, rfl, rfl, rfl⟩
    outstandingConfigured := Bool.noConfusion
    checked := Bool.noConfusion
    statusCycle := ⟨Status.noConfusion, Status.noConfusion⟩
    decoded := fun _ => Res.noConfusion }

/-- The suppression stands only with the capture abandoned (10_state.md R37 item 6). -/
theorem State.Inv.not_suppressed {s : State} (h : s.Inv) (ho : s.outstanding = true) : s.suppress = false := by
  cases hs : s.suppress with
  | false => rfl
  | true =>
    obtain ⟨-, hout, -⟩ := h.suppress hs
    exact absurd (ho.symm.trans hout) Bool.noConfusion

/-- PROCESS on a complete capture: a frame that became valid passed both checks and was written whole, and every other
cycle ends Aborted (46_sequencer.md R225, 44_device_validator.md R187). -/
theorem State.Inv.process {s t : State} (h : s.Inv) (ho : s.outstanding = true) (ha : s.armed = false)
    (ht : process s = .next t) : t.Inv := by
  have hc : s.configured = true := h.outstandingConfigured ho
  have hs : s.suppress = false := h.not_suppressed ho
  obtain ⟨t', ht', hspaces, hwritten⟩ := process_next hc (h.profile hc).1 fun _ => h.complete_slots ho ha
  obtain rfl : t' = t := Host.Outcome.next.inj (ht'.symm.trans ht)
  have hend := process_eq_next ht
  have hframe : CycleFrame s t' := hend.frame
  have hprofile : t'.profile = s.profile := by rw [hframe]; rfl
  have hout := hend.outcome
  rw [hprofile] at hout
  -- every register outside the cycle's frame is the old one, so the rules about them are the old rules
  rw [hframe]
  exact { h with
    armed := fun ha' => absurd (ha.symm.trans ha') Bool.noConfusion
    complete := Bool.noConfusion
    valid := fun hv => by
      rcases hout with ⟨-, hstatus, hres, -⟩ | ⟨hv', -⟩
      · exact ⟨hres, rfl, hstatus⟩
      · exact absurd (hv.symm.trans hv') Bool.noConfusion
    suppress := fun hs' => absurd (hs.symm.trans hs') Bool.noConfusion
    outstandingConfigured := Bool.noConfusion
    checked := fun hv => by
      rcases hout with ⟨-, -, -, hdev, hcrc⟩ | ⟨hv', -⟩
      · exact ⟨hc, hdev, hcrc, hwritten hv⟩
      · exact absurd (hv.symm.trans hv') Bool.noConfusion
    statusCycle := by
      rcases hout with ⟨-, hstatus, -⟩ | ⟨-, -, c, hstatus⟩
      · simp [hstatus]
      · simpa [hstatus] using c.status_not_field
    decoded := fun _ hr => by
      rcases hout with ⟨hv, -⟩ | ⟨-, hres, -⟩
      · exact hv
      · exact absurd (hr.symm.trans hres) Res.noConfusion
    spaces := by
      have hwf := hspaces h.spaces
      rw [hframe] at hwf
      exact hwf }

/-! ### The invariant, event by event -/

theorem execEdge_keeps_inv {s t : State} (h : s.Inv) {level : Bool} {now : Time} (hnow : now < 2 ^ s.par.widths.time)
    (ht : execEdge level now s = .next t) : t.Inv := by
  rcases execEdge_eq_next ht with ⟨-, rfl⟩ | ⟨ha, -, -, rfl⟩
  · exact h.with_lastEdgeTime hnow
  · exact (h.with_lastEdgeTime hnow).storeCode ha _ level

theorem execConfig_keeps_inv {s t : State} (h : s.Inv) {model : BitVec 2} {pin : Nat} {pinmode : BitVec 2}
    (hpin : pin < 2 ^ s.par.widths.pin) (ht : execConfig model pin pinmode s = .next t) : t.Inv := by
  obtain ⟨ha, hmode, hp, rfl⟩ := execConfig_eq_next ht
  exact h.configure ha hmode hp hpin

theorem execStart_keeps_inv {s t : State} (h : s.Inv) {now : Time} (hnow : now < 2 ^ s.par.widths.time)
    (ht : execStart now s = .next t) : t.Inv := by
  rcases startOp_eq_next ht with rfl | ⟨hc, hs, -, rfl⟩
  · exact h
  · exact h.arm hc hs hnow

theorem execReadReq_keeps_inv {s t : State} (h : s.Inv) {now : Time} (hnow : now < 2 ^ s.par.widths.time)
    (ht : execReadReq now s = .next t) : t.Inv := by
  rcases execReadReq_eq_next ht with rfl | ⟨hc, -, rfl⟩
  · exact h.unsuppressed
  · exact h.unsuppressed.arm hc rfl hnow

theorem execPoll_keeps_inv {s t : State} (h : s.Inv) {now : Time} (ht : execPoll now s = .next t) : t.Inv := by
  rcases execPoll_eq_next ht with rfl | rfl | ⟨ho, ha, ht⟩
  · exact h
  · exact h.timeout
  · exact h.process ho ha ht

theorem execGetField_keeps_inv {s t : State} (h : s.Inv) {group : BitVec 3} {index : Nat}
    (ht : execGetField group index s = .next t) : t.Inv := by
  obtain ⟨r, rfl⟩ := execGetField_eq_next ht
  exact h.answer r

/-- Every event the decoder can give keeps the invariant. -/
theorem exec_event_keeps_inv {s t : State} {i : Instr} (h : s.Inv) (hevent : isEvent i)
    (hfits : i.wellFormed s.par.widths = true) (ht : exec i s = .next t) : t.Inv := by
  cases i with
  | edge level now => exact execEdge_keeps_inv h (of_decide_eq_true hfits) ht
  | config model pin pinmode => exact execConfig_keeps_inv h (of_decide_eq_true hfits) ht
  | start now => exact execStart_keeps_inv h (of_decide_eq_true hfits) ht
  | readReq now => exact execReadReq_keeps_inv h (of_decide_eq_true hfits) ht
  | poll now => exact execPoll_keeps_inv h ht
  | getField group index => exact execGetField_keeps_inv h ht
  | assemble | sync | trim | chkdev | chkcrc | commit => cases hevent
  | sw _ | dw _ | sh _ | bt _ | ld _ | lt _ => cases hevent

/-- The event decoder gives events only, with operands of their widths (30_encoding.md R97, 46_sequencer.md R230). -/
theorem decode_evt_ok {W : Widths} {w : EventWord} {i : Instr} (h : decode W (.evt w) = .ok i) :
    isEvent i ∧ i.wellFormed W = true := by
  simp only [decode, decodeEvt] at h
  split at h
  case h_7 => cases h
  all_goals
    obtain ⟨-, hfits, rfl⟩ := whenFits_eq_ok.1 h
    exact ⟨rfl, hfits⟩

/-- Settles O49, by the event the step takes. -/
theorem stepsKeepTheInvariant : Obligations.StepsKeepTheInvariant := by
  intro s t h ht
  cases hin : s.inbox with
  | nil =>
    rw [step_of_no_event hin] at ht
    cases ht
    exact h
  | cons w rest =>
    cases hd : decode s.par.widths (.evt w) with
    | error e =>
      rw [step_of_undecodable hin hd] at ht
      cases ht
    | ok i =>
      rw [step_of_event hin hd] at ht
      obtain ⟨hevent, hfits⟩ := decode_evt_ok hd
      exact exec_event_keeps_inv (h.with_inbox rest) hevent hfits ht

/-! ### Reset -/

/-- `State.reset` is one of the states the spec's reset allows: its unspecified registers are 0 (assumption log 8). -/
theorem reset_isReset : State.reset.IsReset where
  armed := rfl
  outstanding := rfl
  suppress := rfl
  configured := rfl
  wr := rfl
  valid := rfl
  status := rfl
  res := rfl
  widths := ⟨Nat.two_pow_pos _, Nat.two_pow_pos _, Nat.two_pow_pos _⟩
  spaces := reset_spacesWf
  outs := rfl

/-- With no capture outstanding the phase follows `res` (10_state.md R35). -/
theorem State.IsReset.phase_idle {s : State} (h : s.IsReset) : s.phase = .idle := by
  simp [State.phase, h.outstanding, h.res]

/-- Settles O6. -/
theorem resetHoldsTheResetTable : Obligations.ResetHoldsTheResetTable := ⟨reset_isReset, reset_isReset.phase_idle⟩

/-- Settles O7, rule by rule of the invariant (`State.Inv.of_reset`). -/
theorem everyResetStateMeetsTheInvariant : Obligations.EveryResetStateMeetsTheInvariant :=
  fun _ => State.Inv.of_reset

end Sys2Proof.Machine
end

section
/-!
PROOFS. `pin` and `pinmode` are read by no rule (10_state.md R28): every operation but CONFIG commutes with writing them.
-/

namespace Sys2Proof.Machine

/-- Writing `pin` and `pinmode` before `op` is writing them after it: `op` neither reads nor writes them. -/
def PinBlind (op : State → Host.Outcome State Fault Refusal) : Prop :=
  ∀ (s : State) (pin : Nat) (pinmode : BitVec 2),
    op (s.withPins pin pinmode) = andThen (op s) fun t => .next (t.withPins pin pinmode)

/-! ### The ways operations are built

That an update or a test does not see the two registers holds by definition almost everywhere: that argument is left out
then. The proof about an operation has the shape of the operation's definition. -/

theorem PinBlind.update {f : State → State}
    (h : ∀ s pin pinmode, f (s.withPins pin pinmode) = (f s).withPins pin pinmode := by intros; rfl) :
    PinBlind fun s => .next (f s) :=
  fun s pin pinmode => congrArg Host.Outcome.next (h s pin pinmode)

theorem PinBlind.fault (f : Fault) : PinBlind fun _ => .fault f := fun _ _ _ => rfl

theorem PinBlind.refused (r : Refusal) : PinBlind fun _ => .refused r := fun _ _ _ => rfl

theorem PinBlind.andThen {f g : State → Host.Outcome State Fault Refusal} (hf : PinBlind f) (hg : PinBlind g) :
    PinBlind fun s => andThen (f s) g := by
  intro s pin pinmode
  simp only [hf s pin pinmode]
  cases f s with
  | next t => exact hg t pin pinmode
  | fault r => rfl
  | refused r => rfl

theorem PinBlind.ite {c : State → Prop} [DecidablePred c] {f g : State → Host.Outcome State Fault Refusal}
    (hf : PinBlind f) (hg : PinBlind g) (hc : ∀ s pin pinmode, c (s.withPins pin pinmode) ↔ c s := by intros; rfl) :
    PinBlind fun s => if c s then f s else g s := by
  intro s pin pinmode
  by_cases h : c s
  · simp only [if_pos h, if_pos ((hc s pin pinmode).2 h)]
    exact hf s pin pinmode
  · simp only [if_neg h, if_neg (mt (hc s pin pinmode).1 h)]
    exact hg s pin pinmode

theorem PinBlind.withProfile {k : DeviceProfile → State → Host.Outcome State Fault Refusal}
    (hk : ∀ p, PinBlind (k p)) : PinBlind fun s => withProfile s fun p => k p s :=
  .ite (fun s => hk s.profile s) (.refused _)

/-- The branch PROCESS and ASSEMBLE take on a result. -/
theorem PinBlind.onResult {f : CycleFailure → State → Host.Outcome State Fault Refusal}
    {g h : State → Host.Outcome State Fault Refusal} (hf : ∀ c, PinBlind (f c)) (hg : PinBlind g)
    (hfail : ∀ s c, s.result = some c → h s = f c s) (hpass : ∀ s, s.result = none → h s = g s) : PinBlind h := by
  intro s pin pinmode
  cases hr : s.result with
  | none =>
    rw [hpass s hr, hpass (s.withPins pin pinmode) hr]
    exact hg s pin pinmode
  | some c =>
    rw [hfail s c hr, hfail (s.withPins pin pinmode) c hr]
    exact hf c s pin pinmode

/-! ### PulseCodes and stages -/

theorem emit_pinBlind (b : Bool) : PinBlind (emit b) :=
  .withProfile fun _ => .ite .update (.fault _)

theorem anom_pinBlind : PinBlind anom := .ite .update (.ite .update .update)

theorem nextSlot_pinBlind : PinBlind fun s => .next s.nextSlot := .update

theorem execSw_pinBlind (level : Bool) : PinBlind (execSw level) := (emit_pinBlind level).andThen nextSlot_pinBlind

theorem emitPair_pinBlind (a b : Bool) :
    PinBlind fun s => andThen (emit a s) fun t => andThen (emit b t) fun u => .next u.nextSlot :=
  (emit_pinBlind a).andThen ((emit_pinBlind b).andThen nextSlot_pinBlind)

theorem execDw_pinBlind (level : Bool) : PinBlind (execDw level) := emitPair_pinBlind (!level) level

theorem execLt_pinBlind (level : Bool) : PinBlind (execLt level) :=
  .ite (emitPair_pinBlind false true) (.ite (.ite (execSw_pinBlind level) nextSlot_pinBlind) anom_pinBlind)

theorem execSlot_pinBlind (c : PulseCode) : PinBlind (execSlot c) := by
  unfold execSlot
  cases decodeClass (codeClass c) with
  | none => exact .refused _
  | some cls =>
    cases cls with
    | sw => exact execSw_pinBlind _
    | dw => exact execDw_pinBlind _
    | sh => exact anom_pinBlind
    | bt => exact anom_pinBlind
    | ld => exact anom_pinBlind
    | lt => exact execLt_pinBlind _

theorem assembleLoop_pinBlind (n : Nat) : PinBlind (assembleLoop n) := by
  induction n with
  | zero => exact .update
  | succ n ih =>
    -- the slot's code is the same with other pins, so it is fixed before the slot runs
    have slot : PinBlind fun s => execSlot (s.readCode s.pos) s := fun s => execSlot_pinBlind (s.readCode s.pos) s
    refine slot.andThen (.onResult (f := fun _ t => .next t) (fun _ => .update) ih ?_ ?_)
    · intro s c hr
      simp only [hr]
    · intro s hr
      simp only [hr]

theorem endAssemble_withPins (s : State) (cap pin : Nat) (pinmode : BitVec 2) :
    (s.withPins pin pinmode).endAssemble cap = (s.endAssemble cap).withPins pin pinmode := by
  have hresult : (s.withPins pin pinmode).result = s.result := rfl
  unfold State.endAssemble
  rw [hresult]
  cases s.result <;> rfl

theorem execAssemble_pinBlind : PinBlind execAssemble :=
  .withProfile fun p =>
    PinBlind.andThen (fun s => assembleLoop_pinBlind p.cap s.beginAssemble)
      (.update fun s => endAssemble_withPins s p.cap)

theorem synced_withPins (p : DeviceProfile) (s : State) (pin : Nat) (pinmode : BitVec 2) :
    (s.withPins pin pinmode).synced p = (s.synced p).withPins pin pinmode := by
  have hscan : scan16 (s.withPins pin pinmode).readBit (s.withPins pin pinmode).blen = scan16 s.readBit s.blen := rfl
  have hretry : scan16 (s.withPins pin pinmode).invert.readBit (s.withPins pin pinmode).blen =
    scan16 s.invert.readBit s.blen := rfl
  unfold State.synced
  rw [hscan, hretry]
  cases scan16 s.readBit s.blen with
  | some q => rfl
  | none => cases scan16 s.invert.readBit s.blen <;> rfl

theorem execSync_pinBlind : PinBlind execSync :=
  .withProfile fun p => .ite (.update (synced_withPins p)) (.fault _)

theorem execTrim_pinBlind : PinBlind execTrim :=
  .withProfile fun _ => .ite .update (.fault _)

theorem execChkdev_pinBlind : PinBlind execChkdev :=
  .withProfile fun _ => .ite .update (.fault _)

theorem execChkcrc_pinBlind : PinBlind execChkcrc :=
  .withProfile fun _ => .ite .update (.ite .update (.fault _))

theorem execCommit_pinBlind : PinBlind execCommit := .update

/-! ### Events -/

theorem execEdge_pinBlind (level : Bool) (now : Time) : PinBlind (execEdge level now) := by
  have append : PinBlind fun s => withProfile s fun p =>
      if s.wr < p.cap then
        .next (State.storeCode { s with lastEdgeTime := now } p.cap
          (composeCode (classify (interval s.par.widths.time now s.lastEdgeTime) p) level))
      else .fault .pulseSlotOutOfRange :=
    .withProfile fun _ => .ite .update (.fault _)
  exact .ite append .update

theorem startOp_pinBlind (now : Time) : PinBlind (startOp now) :=
  .ite (.ite .update (.ite .update .update)) (.refused _)

theorem execReadReq_pinBlind (now : Time) : PinBlind (execReadReq now) :=
  .ite (fun s => startOp_pinBlind now { s with suppress := false }) (.refused _)

theorem runStages_pinBlind {l : List (State → Host.Outcome State Fault Refusal)} (h : ∀ stage ∈ l, PinBlind stage) :
    PinBlind (runStages l) := by
  induction l with
  | nil => exact .update
  | cons stage rest ih =>
    obtain ⟨hstage, hrest⟩ := List.forall_mem_cons.1 h
    refine hstage.andThen (.onResult (f := fun c t => .next (t.fail c)) (fun _ => .update) (ih hrest) ?_ ?_)
    · intro s c hr
      simp only [hr]
    · intro s hr
      simp only [hr]

theorem process_pinBlind : PinBlind process := by
  have hstages : PinBlind (runStages stages) := by
    refine runStages_pinBlind ?_
    simp only [stages, List.forall_mem_cons, List.not_mem_nil, false_imp_iff, implies_true, and_true]
    exact ⟨execAssemble_pinBlind, execSync_pinBlind, execTrim_pinBlind, execChkdev_pinBlind, execChkcrc_pinBlind,
      execCommit_pinBlind⟩
  exact fun s => hstages { s with outstanding := false }

theorem execPoll_pinBlind (now : Time) : PinBlind (execPoll now) :=
  .ite (.ite (.ite .update .update) process_pinBlind) .update

theorem groupField_answer_pinBlind (p : DeviceProfile) (group : BitVec 3) (index : Nat) :
    PinBlind fun s => andThen (groupField p s.readFrame group index) fun r => .next (s.answer r) := by
  intro s pin pinmode
  have hread : (s.withPins pin pinmode).readFrame = s.readFrame := rfl
  simp only [hread]
  cases groupField p s.readFrame group index <;> rfl

theorem execGetField_pinBlind (group : BitVec 3) (index : Nat) : PinBlind (execGetField group index) :=
  .ite (.withProfile fun p => groupField_answer_pinBlind p group index) .update

/-- CONFIG writes both registers and reads neither (46_sequencer.md R220). -/
theorem execConfig_withPins (model : BitVec 2) (pin : Nat) (pinmode : BitVec 2) (s : State) (a : Nat) (b : BitVec 2) :
    execConfig model pin pinmode (s.withPins a b) = execConfig model pin pinmode s := rfl

/-! ### The statement -/

/-- What the statement says of one operation. -/
theorem PinBlind.outcomes {op : State → Host.Outcome State Fault Refusal} (h : PinBlind op) (s : State) (pin : Nat)
    (pinmode : BitVec 2) :
    (∀ t, op s = .next t → ∃ a b, op (s.withPins pin pinmode) = .next (t.withPins a b)) ∧
    (∀ f, op s = .fault f → op (s.withPins pin pinmode) = .fault f) ∧
    (∀ r, op s = .refused r → op (s.withPins pin pinmode) = .refused r) := by
  rw [h s pin pinmode]
  refine ⟨fun t e => ⟨pin, pinmode, ?_⟩, fun f e => ?_, fun r e => ?_⟩ <;> rw [e] <;> rfl

/-- Settles O55: CONFIG overwrites both registers, and every other operation is `PinBlind`. -/
theorem pinAndPinmodeAreNeverRead : Obligations.PinAndPinmodeAreNeverRead := by
  intro s i pin pinmode
  cases i with
  | config model newPin newMode =>
    have hsame : exec (.config model newPin newMode) (s.withPins pin pinmode) =
        exec (.config model newPin newMode) s := execConfig_withPins model newPin newMode s pin pinmode
    rw [hsame]
    exact ⟨fun t e => ⟨t.pin, t.pinmode, e⟩, fun _ => id, fun _ => id⟩
  | edge level now => exact (execEdge_pinBlind level now).outcomes s pin pinmode
  | start now => exact (startOp_pinBlind now).outcomes s pin pinmode
  | readReq now => exact (execReadReq_pinBlind now).outcomes s pin pinmode
  | poll now => exact (execPoll_pinBlind now).outcomes s pin pinmode
  | getField group index => exact (execGetField_pinBlind group index).outcomes s pin pinmode
  | assemble => exact execAssemble_pinBlind.outcomes s pin pinmode
  | sync => exact execSync_pinBlind.outcomes s pin pinmode
  | trim => exact execTrim_pinBlind.outcomes s pin pinmode
  | chkdev => exact execChkdev_pinBlind.outcomes s pin pinmode
  | chkcrc => exact execChkcrc_pinBlind.outcomes s pin pinmode
  | commit => exact execCommit_pinBlind.outcomes s pin pinmode
  | sw level => exact (execSw_pinBlind level).outcomes s pin pinmode
  | dw level => exact (execDw_pinBlind level).outcomes s pin pinmode
  | sh level => exact anom_pinBlind.outcomes s pin pinmode
  | bt level => exact anom_pinBlind.outcomes s pin pinmode
  | ld level => exact anom_pinBlind.outcomes s pin pinmode
  | lt level => exact (execLt_pinBlind level).outcomes s pin pinmode

end Sys2Proof.Machine
end

section
/-!
PROOFS. The configuration registers, the capture's start time, and the refusals while unconfigured (10_state.md R26,
R28, R29).
-/

namespace Sys2Proof.Machine

/-! ### What a stage or a PulseCode writes, whatever the operation -/

/-- Every operation the environment cannot ask for, apart from COMMIT, writes working registers only. -/
theorem exec_workFrame {i : Instr} {s t : State} (ht : exec i s = .next t) (hevent : ¬ isEvent i)
    (hcommit : i ≠ .commit) : WorkFrame s t := by
  cases i with
  | edge _ _ | config _ _ _ | start _ | readReq _ | poll _ | getField _ _ => exact absurd rfl hevent
  | assemble => exact execAssemble_frame ht
  | sync =>
    obtain ⟨-, -, rfl⟩ := execSync_eq_next ht
    exact (synced_spec s s.profile).1
  | trim =>
    obtain ⟨-, rfl⟩ := execTrim_eq_next ht
    rfl
  | chkdev =>
    obtain ⟨-, rfl⟩ := execChkdev_eq_next ht
    rfl
  | chkcrc =>
    obtain ⟨-, rfl⟩ := execChkcrc_eq_next ht
    rfl
  | commit => exact absurd rfl hcommit
  | sw level => exact (execSw_frame ht).work
  | dw level => exact (execDw_frame ht).work
  | sh _ | bt _ | ld _ => exact (anom_frame ht).work
  | lt level => exact (execLt_frame ht).work

/-! ### The configuration -/

/-- The parameters and the configuration registers of the two states agree (10_state.md R28, R29). -/
def SameConfig (s t : State) : Prop :=
  t.par = s.par ∧ t.configured = s.configured ∧ t.model = s.model ∧ t.pin = s.pin ∧ t.pinmode = s.pinmode

theorem SameConfig.refl (s : State) : SameConfig s s := ⟨rfl, rfl, rfl, rfl, rfl⟩

theorem WorkFrame.sameConfig {s t : State} (h : WorkFrame s t) : SameConfig s t := by
  rw [h]
  exact .refl s

theorem CycleFrame.sameConfig {s t : State} (h : CycleFrame s t) : SameConfig s t := by
  rw [h]
  exact .refl s

theorem exec_sameConfig {i : Instr} {s t : State} (hconfig : ∀ m p q, i ≠ .config m p q) (ht : exec i s = .next t) :
    SameConfig s t := by
  cases i with
  | edge level now => rcases execEdge_eq_next ht with ⟨-, rfl⟩ | ⟨-, -, -, rfl⟩ <;> exact .refl s
  | config m p q => exact absurd rfl (hconfig m p q)
  | start now => rcases startOp_eq_next ht with rfl | ⟨-, -, -, rfl⟩ <;> exact .refl _
  | readReq now => rcases execReadReq_eq_next ht with rfl | ⟨-, -, rfl⟩ <;> exact .refl s
  | poll now =>
    rcases execPoll_eq_next ht with rfl | rfl | ⟨-, -, ht⟩
    · exact .refl _
    · exact .refl s
    · exact (process_eq_next ht).frame.sameConfig
  | getField group index =>
    obtain ⟨r, rfl⟩ := execGetField_eq_next ht
    exact .refl s
  | commit =>
    cases ht
    exact .refl s
  | assemble | sync | trim | chkdev | chkcrc => exact (exec_workFrame ht nofun nofun).sameConfig
  | sw _ | dw _ | sh _ | bt _ | ld _ | lt _ => exact (exec_workFrame ht nofun nofun).sameConfig

/-- Settles O52: CONFIG writes no parameter (`execConfig_eq_next`), and nothing else writes the configuration. -/
theorem onlyConfigSelectsAProfile : Obligations.OnlyConfigSelectsAProfile := by
  intro s t i ht
  by_cases hconfig : ∀ m p q, i ≠ .config m p q
  · obtain ⟨hpar, hregisters⟩ := exec_sameConfig hconfig ht
    exact ⟨hpar, fun _ => hregisters⟩
  · refine ⟨?_, fun h => absurd h hconfig⟩
    push Not at hconfig
    obtain ⟨m, p, q, rfl⟩ := hconfig
    obtain ⟨-, -, -, rfl⟩ := execConfig_eq_next ht
    rfl

/-! ### The capture -/

/-- An armed capture with an empty buffer is in phase Armed (10_state.md R35). -/
theorem arm_phase (s : State) (now : Time) : (s.arm now).phase = .armed := rfl

/-- `t` is in the capture of `s`, with its start time. -/
theorem WorkFrame.sameCapture {s t : State} (h : WorkFrame s t) :
    t.outstanding = s.outstanding ∧ t.armTime = s.armTime := by
  rw [h]
  exact ⟨rfl, rfl⟩

theorem CycleFrame.not_outstanding {s t : State} (h : CycleFrame s t) : t.outstanding = false := by rw [h]

/-- Settles O56: where an operation does not arm, it leaves the capture and its start time or ends the capture. -/
theorem capturesBeginOnlyWithTheirArmTime : Obligations.CapturesBeginOnlyWithTheirArmTime := by
  intro s t i ht ho
  cases i with
  | edge level now => rcases execEdge_eq_next ht with ⟨-, rfl⟩ | ⟨-, -, -, rfl⟩ <;> exact .inl ⟨ho, rfl⟩
  | config model pin pinmode =>
    obtain ⟨-, -, -, rfl⟩ := execConfig_eq_next ht
    cases ho
  | start now =>
    rcases startOp_eq_next ht with rfl | ⟨-, -, -, rfl⟩
    · exact .inl ⟨ho, rfl⟩
    · exact .inr ⟨arm_phase s now, now, .inl rfl, rfl⟩
  | readReq now =>
    rcases execReadReq_eq_next ht with rfl | ⟨-, -, rfl⟩
    · exact .inl ⟨ho, rfl⟩
    · exact .inr ⟨arm_phase _ now, now, .inr rfl, rfl⟩
  | poll now =>
    rcases execPoll_eq_next ht with rfl | rfl | ⟨-, -, ht⟩
    · exact .inl ⟨ho, rfl⟩
    · cases ho
    · exact absurd (ho.symm.trans (process_eq_next ht).frame.not_outstanding) Bool.noConfusion
  | getField group index =>
    obtain ⟨r, rfl⟩ := execGetField_eq_next ht
    exact .inl ⟨ho, rfl⟩
  | commit =>
    cases ht
    exact .inl ⟨ho, rfl⟩
  | assemble | sync | trim | chkdev | chkcrc | sw _ | dw _ | sh _ | bt _ | ld _ | lt _ =>
    obtain ⟨hsame, htime⟩ := (exec_workFrame ht nofun nofun).sameCapture
    exact .inl ⟨hsame.symm.trans ho, htime⟩

/-! ### Unconfigured -/

section Unconfigured

variable {s : State} (h : s.configured = false)
include h

theorem emit_of_unconfigured (b : Bool) : emit b s = .refused .notConfigured := withProfile_of_unconfigured h

/-- An operation that begins with EMIT. -/
theorem emit_andThen_of_unconfigured (b : Bool) (f : State → Host.Outcome State Fault Refusal) :
    andThen (emit b s) f = .refused .notConfigured :=
  andThen_eq_refused.2 (.inl (emit_of_unconfigured h b))

theorem execEdge_of_unconfigured (ha : s.armed = true) (level : Bool) (now : Time) :
    execEdge level now s = .refused .notConfigured :=
  (if_pos ha).trans (withProfile_of_unconfigured (s := { s with lastEdgeTime := now }) h)

theorem execLt_merge_of_unconfigured (hd : s.afterDw1 = true) (level : Bool) :
    execLt level s = .refused .notConfigured :=
  (if_pos hd).trans (emit_andThen_of_unconfigured h _ _)

/-- In slot 0 there is no code before, so LT seeds. -/
theorem execLt_seed_of_unconfigured (hp : s.pos = 0) (hseed : s.par.seedEmit = true) (level : Bool) :
    execLt level s = .refused .notConfigured := by
  have hd : ¬ s.afterDw1 = true := fun hd => ((afterDw1_iff s).1 hd).1 hp
  unfold execLt
  rw [if_neg hd, if_pos hp, if_pos hseed, emit_andThen_of_unconfigured h]

theorem execAssemble_of_unconfigured : execAssemble s = .refused .notConfigured := withProfile_of_unconfigured h

theorem execSync_of_unconfigured : execSync s = .refused .notConfigured := withProfile_of_unconfigured h

theorem execTrim_of_unconfigured : execTrim s = .refused .notConfigured := withProfile_of_unconfigured h

theorem execChkdev_of_unconfigured : execChkdev s = .refused .notConfigured := withProfile_of_unconfigured h

theorem execChkcrc_of_unconfigured : execChkcrc s = .refused .notConfigured := withProfile_of_unconfigured h

theorem execGetField_of_unconfigured (hv : s.valid = true) (group : BitVec 3) (index : Nat) :
    execGetField group index s = .refused .notConfigured :=
  (if_pos hv).trans (withProfile_of_unconfigured h)

/-- PROCESS is refused by its first stage. -/
theorem process_of_unconfigured : process s = .refused .notConfigured :=
  andThen_eq_refused.2 (.inl (execAssemble_of_unconfigured (s := { s with outstanding := false }) h))

theorem execPoll_of_unconfigured (ho : s.outstanding = true) (ha : s.armed = false) (now : Time) :
    execPoll now s = .refused .notConfigured := by
  unfold execPoll
  rw [if_pos ho, if_neg (by simp [ha]), process_of_unconfigured h]

end Unconfigured

/-- Settles O59: each of them reaches `withProfile` before it can answer. -/
theorem profileReadersNeedAConfiguration : Obligations.ProfileReadersNeedAConfiguration := by
  intro s level now group index h
  exact ⟨fun ha => execEdge_of_unconfigured h ha level now, emit_andThen_of_unconfigured h _ _,
    emit_andThen_of_unconfigured h _ _, fun hd => execLt_merge_of_unconfigured h hd level,
    fun hp hseed => execLt_seed_of_unconfigured h hp hseed level, execAssemble_of_unconfigured h,
    execSync_of_unconfigured h, execTrim_of_unconfigured h, execChkdev_of_unconfigured h,
    execChkcrc_of_unconfigured h, fun hv => execGetField_of_unconfigured h hv group index,
    fun ho ha => execPoll_of_unconfigured h ho ha now⟩

end Sys2Proof.Machine
end

section
/-!
PROOFS. The storage spaces (20_memory.md): no step of a reachable state leaves one (R68), every operation keeps their
canonical form (assumption log 9), and an access outside one faults by name (assumption log 17).
-/

namespace Sys2Proof.Machine

/-! ### No step of a state that meets the invariant faults -/

/-- CONFIG reads no storage space (46_sequencer.md R220). -/
theorem execConfig_ne_fault (model : BitVec 2) (pin : Nat) (pinmode : BitVec 2) (s : State) (f : Fault) :
    execConfig model pin pinmode s ≠ .fault f := by
  unfold execConfig
  split
  · exact nofun
  · split
    · exact nofun
    · split <;> exact nofun

/-- A valid frame's heat groups are refused before a byte is read (45_field_decoder.md R209, R210). -/
theorem execGetField_heat_ne_fault {s : State} (h : s.Inv) (hv : s.valid = true) {group : BitVec 3}
    (hgroup : group = 4#3 ∨ group = 5#3) (index : Nat) (f : Fault) : execGetField group index s ≠ .fault f := by
  obtain ⟨hc, -⟩ := h.wellFormed_of_valid hv
  rw [execGetField_valid group index hv hc]
  rcases hgroup with rfl | rfl <;> exact nofun

/-- An event completes or is refused. Of CONFIG and the heat groups `eventsAreRefusedOnlyAsTheRulesSay` gives the reason
and not the outcome, which is no fault. -/
theorem exec_event_ne_fault {s : State} {i : Instr} (h : s.Inv) (hevent : isEvent i) (f : Fault) :
    exec i s ≠ .fault f := by
  rcases eventsAreRefusedOnlyAsTheRulesSay s i h hevent with
    ⟨t, e⟩ | ⟨-, now, -, e⟩ | ⟨model, pin, pinmode, rfl, -⟩ | ⟨hv, index, rfl | rfl⟩
  · rw [e]
    exact nofun
  · rw [e]
    exact nofun
  · exact execConfig_ne_fault model pin pinmode s f
  · exact execGetField_heat_ne_fault h hv (.inl rfl) index f
  · exact execGetField_heat_ne_fault h hv (.inr rfl) index f

/-- Settles O50, by the event the step takes. -/
theorem noStepFaults : Obligations.NoStepFaults := by
  intro s f h
  cases hin : s.inbox with
  | nil =>
    rw [step_of_no_event hin]
    exact nofun
  | cons w rest =>
    cases hd : decode s.par.widths (.evt w) with
    | error e =>
      rw [step_of_undecodable hin hd]
      exact nofun
    | ok i =>
      rw [step_of_event hin hd]
      exact exec_event_ne_fault (h.with_inbox rest) (decode_evt_ok hd).1 f

/-! ### The canonical form -/

/-- `op` keeps the storage spaces in canonical form. -/
def KeepsSpaces (op : State → Host.Outcome State Fault Refusal) : Prop :=
  ∀ s t : State, s.spacesWf = true → op s = .next t → t.spacesWf = true

theorem KeepsSpaces.andThen {f g : State → Host.Outcome State Fault Refusal} (hf : KeepsSpaces f)
    (hg : KeepsSpaces g) : KeepsSpaces fun s => andThen (f s) g := by
  intro s t h ht
  obtain ⟨u, hu, ht⟩ := andThen_eq_next.1 ht
  exact hg u t (hf s u h hu) ht

/-- What writes working registers only can lose the canonical form in the bit space and in the frame only. -/
theorem WorkFrame.spacesWf {s t : State} (hw : WorkFrame s t) (h : s.spacesWf = true)
    (hbits : s.bits.wf = true → t.bits.wf = true) (hframe : s.frame.wf = true → t.frame.wf = true) :
    t.spacesWf = true := by
  obtain ⟨bufWf, bitsWf, frameWf⟩ := s.spacesWf_iff.1 h
  exact t.spacesWf_iff.2 ⟨by rwa [hw.buf], hbits bitsWf, hframe frameWf⟩

theorem emit_keepsSpaces (b : Bool) : KeepsSpaces (emit b) := by
  intro s t h ht
  obtain ⟨-, -, rfl⟩ := emit_eq_next.1 ht
  exact (AsmFrame.emitted s b).work.spacesWf h (emitted_wf b) id

theorem nextSlot_keepsSpaces : KeepsSpaces fun s => .next s.nextSlot := by
  intro s t h ht
  cases ht
  exact h

theorem anom_keepsSpaces : KeepsSpaces anom := by
  intro s t h ht
  rcases anom_cases s with ⟨-, e⟩ | ⟨-, -, e⟩ | ⟨-, -, e⟩ <;> rw [e] at ht <;> cases ht <;> exact h

theorem execSw_keepsSpaces (level : Bool) : KeepsSpaces (execSw level) :=
  (emit_keepsSpaces level).andThen nextSlot_keepsSpaces

theorem emitPair_keepsSpaces (a b : Bool) :
    KeepsSpaces fun s => andThen (emit a s) fun t => andThen (emit b t) fun u => .next u.nextSlot :=
  (emit_keepsSpaces a).andThen ((emit_keepsSpaces b).andThen nextSlot_keepsSpaces)

/-- LT emits two half-bits, one or none, or runs ANOM (41_frame_assembler.md R146). -/
theorem execLt_keepsSpaces (level : Bool) : KeepsSpaces (execLt level) := by
  intro s t h ht
  unfold execLt at ht
  split at ht
  · exact emitPair_keepsSpaces false true s t h ht
  · split at ht
    · split at ht
      · exact execSw_keepsSpaces level s t h ht
      · exact nextSlot_keepsSpaces s t h ht
    · exact anom_keepsSpaces s t h ht

theorem execAssemble_keepsSpaces : KeepsSpaces execAssemble := by
  intro s t h ht
  obtain ⟨hc, -⟩ := withProfile_eq_next.1 ht
  rcases execAssemble_cases hc with ⟨t', e, hw, hframe, -, hbits, -⟩ | ⟨e, -⟩ <;> rw [e] at ht <;> cases ht
  exact hw.spacesWf h hbits (by rw [hframe]; exact id)

theorem execSync_keepsSpaces : KeepsSpaces execSync := by
  intro s t h ht
  obtain ⟨-, -, rfl⟩ := execSync_eq_next ht
  obtain ⟨hw, hframe, -, hbits, -⟩ := synced_spec s s.profile
  exact hw.spacesWf h hbits (by rw [hframe]; exact id)

theorem execTrim_keepsSpaces : KeepsSpaces execTrim := by
  intro s t h ht
  obtain ⟨-, rfl⟩ := execTrim_eq_next ht
  exact WorkFrame.spacesWf rfl h id (wf_trimBytes _ _ _)

theorem execChkdev_keepsSpaces : KeepsSpaces execChkdev := by
  intro s t h ht
  obtain ⟨-, rfl⟩ := execChkdev_eq_next ht
  exact h

theorem execChkcrc_keepsSpaces : KeepsSpaces execChkcrc := by
  intro s t h ht
  obtain ⟨-, rfl⟩ := execChkcrc_eq_next ht
  exact h

theorem execCommit_keepsSpaces : KeepsSpaces execCommit := by
  intro s t h ht
  cases ht
  exact h

/-- FAIL writes no storage space (60_exceptions.md R256), so a list of stages keeps what each of them keeps. -/
theorem runStages_keepsSpaces {l : List (State → Host.Outcome State Fault Refusal)}
    (hl : ∀ stage ∈ l, KeepsSpaces stage) : KeepsSpaces (runStages l) := by
  induction l with
  | nil =>
    intro s t h ht
    cases ht
    exact h
  | cons stage rest ih =>
    obtain ⟨hstage, hrest⟩ := List.forall_mem_cons.1 hl
    intro s t h ht
    obtain ⟨u, hu, hend⟩ := runStages_eq_next ht
    have hu : u.spacesWf = true := hstage s u h hu
    rcases hend with ⟨c, -, rfl⟩ | ⟨-, ht⟩
    · exact hu
    · exact ih hrest u t hu ht

theorem process_keepsSpaces : KeepsSpaces process := by
  have hstages : KeepsSpaces (runStages stages) := by
    refine runStages_keepsSpaces ?_
    simp only [stages, List.forall_mem_cons, List.not_mem_nil, false_imp_iff, implies_true, and_true]
    exact ⟨execAssemble_keepsSpaces, execSync_keepsSpaces, execTrim_keepsSpaces, execChkdev_keepsSpaces,
      execChkcrc_keepsSpaces, execCommit_keepsSpaces⟩
  exact fun s => hstages { s with outstanding := false }

/-- EDGE writes the PulseBuffer, one slot of it (40_edge_sampler.md R126). -/
theorem execEdge_keepsSpaces (level : Bool) (now : Time) : KeepsSpaces (execEdge level now) := by
  intro s t h ht
  rcases execEdge_eq_next ht with ⟨-, rfl⟩ | ⟨-, -, -, rfl⟩
  · exact h
  · obtain ⟨bufWf, bitsWf, frameWf⟩ := s.spacesWf_iff.1 h
    exact (State.spacesWf_iff _).2 ⟨Memory.wf_write _ _ bufWf, bitsWf, frameWf⟩

/-- Settles O53, operation by operation: EDGE writes the PulseBuffer, and only the stages and PulseCodes, on their own or
inside POLL, write the other two spaces. -/
theorem spacesStayCanonical : Obligations.SpacesStayCanonical := by
  intro s t i h ht
  cases i with
  | edge level now => exact execEdge_keepsSpaces level now s t h ht
  | config model pin pinmode =>
    obtain ⟨-, -, -, rfl⟩ := execConfig_eq_next ht
    exact h
  | start now => rcases startOp_eq_next ht with rfl | ⟨-, -, -, rfl⟩ <;> exact h
  | readReq now => rcases execReadReq_eq_next ht with rfl | ⟨-, -, rfl⟩ <;> exact h
  | poll now =>
    rcases execPoll_eq_next ht with rfl | rfl | ⟨-, -, ht⟩
    · exact h
    · exact h
    · exact process_keepsSpaces s t h ht
  | getField group index =>
    obtain ⟨r, rfl⟩ := execGetField_eq_next ht
    exact h
  | assemble => exact execAssemble_keepsSpaces s t h ht
  | sync => exact execSync_keepsSpaces s t h ht
  | trim => exact execTrim_keepsSpaces s t h ht
  | chkdev => exact execChkdev_keepsSpaces s t h ht
  | chkcrc => exact execChkcrc_keepsSpaces s t h ht
  | commit => exact execCommit_keepsSpaces s t h ht
  | sw level => exact execSw_keepsSpaces level s t h ht
  | dw level => exact emitPair_keepsSpaces (!level) level s t h ht
  | sh _ | bt _ | ld _ => exact anom_keepsSpaces s t h ht
  | lt level => exact execLt_keepsSpaces level s t h ht

/-! ### Accesses outside a space: the query groups (45_field_decoder.md R197, R206, R207, R208) -/

section Queries

variable {p : DeviceProfile} (byte : Nat → Byte) {index : Nat}

theorem sensorField_outside (hindex : index < p.fields.sensorCount)
    (hout : p.len ≤ p.fields.sensorBase + 2 * index + 1) :
    sensorField p byte index = .fault .frameByteOutOfRange :=
  (if_pos hindex).trans (if_neg (Nat.not_lt.2 hout))

theorem outputField_outside (hindex : index < 8 * p.fields.outBytes.val)
    (hout : p.len < p.fields.outBase + p.fields.outBytes.val) :
    outputField p byte index = .fault .frameByteOutOfRange :=
  (if_pos hindex).trans (if_neg (Nat.not_le.2 hout))

theorem speedField_outside (hindex : index < p.fields.speedCount) (hout : p.len ≤ p.fields.speedBase + index) :
    speedField p byte index = .fault .frameByteOutOfRange :=
  (if_pos hindex).trans (if_neg (Nat.not_lt.2 hout))

theorem analogField_outside (hindex : index < p.fields.analogCount) (hout : p.len ≤ p.fields.analogBase + index) :
    analogField p byte index = .fault .frameByteOutOfRange :=
  (if_pos hindex).trans (if_neg (Nat.not_lt.2 hout))

end Queries

/-! ### Accesses outside a space: the operations of a configured state -/

section Outside

variable {s : State} (hc : s.configured = true)
include hc

theorem execEdge_of_full (ha : s.armed = true) (hfull : s.profile.cap ≤ s.wr) (level : Bool) (now : Time) :
    execEdge level now s = .fault .pulseSlotOutOfRange :=
  (if_pos ha).trans ((withProfile_of_configured (s := { s with lastEdgeTime := now }) hc).trans
    (if_neg (Nat.not_lt.2 hfull)))

/-- An operation that begins with EMIT. -/
theorem emit_andThen_of_full (hfull : 2 * s.profile.cap ≤ s.hc) (b : Bool)
    (f : State → Host.Outcome State Fault Refusal) : andThen (emit b s) f = .fault .bitIndexOutOfRange :=
  andThen_eq_fault.2 (.inl (emit_eq_fault.2 ⟨hc, hfull, rfl⟩))

/-- An operation that begins with two EMITs: without room for both, the first faults or leaves none for the second. -/
theorem emitPair_of_full (hfull : 2 * s.profile.cap ≤ s.hc + 1) (a b : Bool)
    (f : State → Host.Outcome State Fault Refusal) :
    andThen (emit a s) (fun t => andThen (emit b t) f) = .fault .bitIndexOutOfRange := by
  by_cases hroom : s.hc < 2 * s.profile.cap
  · rw [emit_next a hc hroom, andThen_next]
    exact emit_andThen_of_full (s := s.emitted a) hc hfull b f
  · exact emit_andThen_of_full hc (Nat.not_lt.1 hroom) a _

theorem execLt_merge_of_full (hd : s.afterDw1 = true) (hfull : 2 * s.profile.cap ≤ s.hc + 1) (level : Bool) :
    execLt level s = .fault .bitIndexOutOfRange :=
  (if_pos hd).trans (emitPair_of_full hc hfull false true _)

/-- In slot 0 there is no code before, so LT seeds. -/
theorem execLt_seed_of_full (hp : s.pos = 0) (hseed : s.par.seedEmit = true) (hfull : 2 * s.profile.cap ≤ s.hc)
    (level : Bool) : execLt level s = .fault .bitIndexOutOfRange := by
  have hd : ¬ s.afterDw1 = true := fun hd => ((afterDw1_iff s).1 hd).1 hp
  unfold execLt
  rw [if_neg hd, if_pos hp, if_pos hseed, emit_andThen_of_full hc hfull]

theorem execSync_outside (hlong : s.profile.cap < s.blen) : execSync s = .fault .bitIndexOutOfRange :=
  (withProfile_of_configured hc).trans (if_neg (Nat.not_le.2 hlong))

theorem execTrim_outside (hshort : s.blen + 2 ≤ s.start + 10 * s.profile.len) :
    execTrim s = .fault .bitIndexOutOfRange :=
  (withProfile_of_configured hc).trans (if_neg (Nat.not_lt.2 hshort))

theorem execChkdev_outside (hshort : s.profile.len = 0 ∨ s.profile.id1 ≠ none ∧ s.profile.len < 2) :
    execChkdev s = .fault .frameByteOutOfRange := by
  have hid : ¬ s.profile.idInside = true := by
    rw [idInside_iff]
    rintro ⟨hlen, hid1⟩
    rcases hshort with h0 | ⟨hne, h2⟩
    · omega
    · exact hid1.elim hne (Nat.not_le.2 h2)
  exact (withProfile_of_configured hc).trans (if_neg hid)

theorem execChkcrc_outside (hcrc : s.profile.crcIdx ≠ 0) (hout : s.profile.len ≤ s.profile.crcIdx) :
    execChkcrc s = .fault .frameByteOutOfRange :=
  (withProfile_of_configured hc).trans ((if_neg hcrc).trans (if_neg (Nat.not_lt.2 hout)))

/-- A query faults as its group does. -/
theorem execGetField_of_fault (hv : s.valid = true) {group : BitVec 3} {index : Nat} {f : Fault}
    (hf : groupField s.profile s.readFrame group index = .fault f) : execGetField group index s = .fault f := by
  rw [execGetField_valid group index hv hc]
  exact andThen_eq_fault.2 (.inl hf)

end Outside

/-- Settles O58: the profile is there, and each of them fails the bound test that guards its access. -/
theorem accessesOutsideASpaceFault : Obligations.AccessesOutsideASpaceFault := by
  intro s level now index hc
  exact ⟨fun ha hfull => execEdge_of_full hc ha hfull level now,
    fun hfull => emit_andThen_of_full hc hfull _ _,
    fun hfull => emitPair_of_full hc hfull _ _ _,
    fun hfull hd => execLt_merge_of_full hc hd hfull level,
    fun hfull hp hseed => execLt_seed_of_full hc hp hseed hfull level,
    execSync_outside hc,
    execTrim_outside hc,
    execChkdev_outside hc,
    execChkcrc_outside hc,
    fun hv hindex hout => execGetField_of_fault hc hv (sensorField_outside _ hindex hout),
    fun hv hindex hout => execGetField_of_fault hc hv (outputField_outside _ hindex hout),
    fun hv hindex hout => execGetField_of_fault hc hv (speedField_outside _ hindex hout),
    fun hv hindex hout => execGetField_of_fault hc hv (analogField_outside _ hindex hout)⟩

end Sys2Proof.Machine
end

section
/-!
PROOFS. The encoding (30_encoding.md): decoder and encoder are each other's inverse on what they accept, and the decoder
refuses the rest by name.
-/

namespace Sys2Proof

/-! ### The fields of an event word (30_encoding.md R97; assumption log 3) -/

theorem EventWord.low_make {code low : Nat} (wide : Nat) (hcode : code < 8) (hlow : low < 32) :
    EventWord.low (EventWord.make code low wide) = low := by
  unfold EventWord.low EventWord.make
  omega

theorem EventWord.wide_make {code low : Nat} (wide : Nat) (hcode : code < 8) (hlow : low < 32) :
    EventWord.wide (EventWord.make code low wide) = wide := by
  unfold EventWord.wide EventWord.make
  omega

theorem EventWord.make_fields (w : EventWord) :
    EventWord.make (EventWord.code w) (EventWord.low w) (EventWord.wide w) = w := by
  show (_ : Nat) = _
  unfold EventWord.make EventWord.code EventWord.low EventWord.wide
  omega

/-- EDGE's level is packed back into bit 3. -/
theorem toNat_beq_one {low : Nat} (h : low < 2) : (low == 1).toNat = low := by
  rcases (by omega : low = 0 ∨ low = 1) with rfl | rfl <;> rfl

/-- CONFIG's two operands are read back from bits 6:3. -/
theorem configOperands_of_pack (model pinmode : BitVec 2) :
    BitVec.ofNat 2 (model.toNat + 4 * pinmode.toNat) = model ∧
      BitVec.ofNat 2 ((model.toNat + 4 * pinmode.toNat) / 4) = pinmode := by
  constructor <;> bv_omega

/-- Bits 6:3 are packed back from CONFIG's two operands. -/
theorem pack_of_configOperands {low : Nat} (h : low < 16) :
    (BitVec.ofNat 2 low).toNat + 4 * (BitVec.ofNat 2 (low / 4)).toNat = low := by
  simp only [BitVec.toNat_ofNat]
  omega

/-! ### The fields of a PulseCode (30_encoding.md R90, R91, R92) -/

/-- A class code has a class exactly when it is that class's own code. -/
theorem decodeClass_eq_some {c : BitVec 3} {cls : PulseClass} : decodeClass c = some cls ↔ c = cls.code := by
  constructor
  · intro h
    unfold decodeClass at h
    split at h <;> cases h <;> exact BitVec.eq_of_toNat_eq ‹_›
  · rintro rfl
    cases cls <;> rfl

theorem decodeClass_of_reserved {c : BitVec 3} (h : c = 6#3 ∨ c = 7#3) : decodeClass c = none := by
  rcases h with rfl | rfl <;> rfl

theorem append_pulseFields : ∀ c : PulseCode, codeClass c ++ BitVec.ofBool (codeLevel c) = c := by decide

theorem encode_pulseInstr (cls : PulseClass) (level : Bool) :
    encode (pulseInstr cls level) = .pc (composeCode cls level) := by
  cases cls <;> rfl

theorem pulseInstr_wellFormed (W : Widths) (cls : PulseClass) (level : Bool) :
    (pulseInstr cls level).wellFormed W = true := by
  cases cls <;> rfl

end Sys2Proof

namespace Sys2Proof.Machine

/-! ### Reading back a written word -/

theorem whenFits_make {W : Widths} {code low size : Nat} (wide : Nat) {i : Instr} (hcode : code < 8) (hlow : low < size)
    (hsize : size ≤ 32) :
    whenFits W (EventWord.make code low wide) size i =
      if i.wellFormed W then .ok i else .error .operandOutOfRange :=
  if_pos (by rwa [EventWord.low_make wide hcode (by omega)])

/-- The word of an event means that event when its wide operand fits, and is refused when it does not
(46_sequencer.md R230). -/
theorem decode_encode_of_event (W : Widths) {i : Instr} (hevent : i.format = .evt) :
    decode W (encode i) = if i.wellFormed W then .ok i else .error .operandOutOfRange := by
  cases i with
  | edge level now =>
    have hlow : level.toNat < 2 := level.toNat_lt
    have hlevel : (level.toNat == 1) = level := by cases level <;> rfl
    simp (disch := omega) only [decode, encode, decodeEvt, EventWord.code_make, EventWord.low_make, EventWord.wide_make,
      hlevel, whenFits_make]
  | config model pin pinmode =>
    have hlow : model.toNat + 4 * pinmode.toNat < 16 := by omega
    obtain ⟨hmodel, hpinmode⟩ := configOperands_of_pack model pinmode
    simp (disch := omega) only [decode, encode, decodeEvt, EventWord.code_make, EventWord.low_make, EventWord.wide_make,
      hmodel, hpinmode, whenFits_make]
  | start now | readReq now | poll now =>
    simp (disch := omega) only [decode, encode, decodeEvt, EventWord.code_make, EventWord.wide_make, whenFits_make]
  | getField group index =>
    have hlow : group.toNat < 8 := group.isLt
    simp (disch := omega) only [decode, encode, decodeEvt, EventWord.code_make, EventWord.low_make, EventWord.wide_make,
      BitVec.ofNat_toNat, BitVec.setWidth_eq, whenFits_make]
  | assemble | sync | trim | chkdev | chkcrc | commit => cases hevent
  | sw _ | dw _ | sh _ | bt _ | ld _ | lt _ => cases hevent

/-- A PulseCode that decodes is the code composed of its two fields. -/
theorem decodePc_eq_ok {c : PulseCode} {i : Instr} :
    decodePc c = .ok i ↔ ∃ cls level, c = composeCode cls level ∧ i = pulseInstr cls level := by
  constructor
  · intro h
    unfold decodePc at h
    split at h <;> cases h
    rename_i cls hcls
    refine ⟨cls, codeLevel c, ?_, rfl⟩
    rw [composeCode, ← decodeClass_eq_some.1 hcls, append_pulseFields]
  · rintro ⟨cls, level, rfl, rfl⟩
    obtain ⟨hcls, hlevel⟩ := composeCode_fields cls level
    simp only [decodePc, hcls, hlevel, decodeClass_eq_some.2 rfl]

theorem decode_encode_pulseInstr (W : Widths) (cls : PulseClass) (level : Bool) :
    decode W (encode (pulseInstr cls level)) = .ok (pulseInstr cls level) := by
  rw [encode_pulseInstr]
  exact decodePc_eq_ok.2 ⟨cls, level, rfl, rfl⟩

/-! ### Writing a decoded word again -/

theorem evt_make_eq {w : EventWord} {code low : Nat} (hcode : EventWord.code w = code) (hlow : low = EventWord.low w) :
    OpWord.evt (EventWord.make code low (EventWord.wide w)) = .evt w := by
  rw [← hcode, hlow, EventWord.make_fields]

theorem encode_of_decodeEvt {W : Widths} {w : EventWord} {i : Instr} (h : decodeEvt W w = .ok i) :
    encode i = .evt w := by
  simp only [decodeEvt] at h
  split at h
  case h_7 => cases h
  all_goals
    rename_i hcode
    obtain ⟨hlow, -, rfl⟩ := whenFits_eq_ok.1 h
  case h_1 => exact evt_make_eq hcode (toNat_beq_one hlow)
  case h_2 => exact evt_make_eq hcode (pack_of_configOperands hlow)
  case h_3 | h_4 | h_5 => exact evt_make_eq hcode (Nat.lt_one_iff.1 hlow).symm
  case h_6 => exact evt_make_eq hcode ((BitVec.toNat_ofNat ..).trans (Nat.mod_eq_of_lt hlow))

theorem encode_and_wellFormed_of_decodeStg {w : BitVec 3} {i : Instr} (h : decodeStg w = .ok i) (W : Widths) :
    encode i = .stg w ∧ i.wellFormed W = true := by
  unfold decodeStg at h
  split at h <;> cases h <;> exact ⟨congrArg OpWord.stg (BitVec.eq_of_toNat_eq ‹_›).symm, rfl⟩

/-! ### The obligations about words -/

/-- Settles O3, format by format. -/
theorem decodeOfEncodeIsIdentity : Obligations.DecodeOfEncodeIsIdentity := by
  intro W i hfits
  cases i with
  | edge _ _ | config _ _ _ | start _ | readReq _ | poll _ | getField _ _ =>
    rw [decode_encode_of_event W rfl, if_pos hfits]
  | assemble | sync | trim | chkdev | chkcrc | commit => rfl
  | sw level => exact decode_encode_pulseInstr W .sw level
  | dw level => exact decode_encode_pulseInstr W .dw level
  | sh level => exact decode_encode_pulseInstr W .sh level
  | bt level => exact decode_encode_pulseInstr W .bt level
  | ld level => exact decode_encode_pulseInstr W .ld level
  | lt level => exact decode_encode_pulseInstr W .lt level

/-- Settles O4, format by format. -/
theorem encodeOfDecodeIsIdentity : Obligations.EncodeOfDecodeIsIdentity := by
  intro W w i h
  cases w with
  | evt w => exact ⟨encode_of_decodeEvt h, (decode_evt_ok h).2⟩
  | stg w => exact encode_and_wellFormed_of_decodeStg h W
  | pc c =>
    obtain ⟨cls, level, rfl, rfl⟩ := decodePc_eq_ok.1 h
    exact ⟨encode_pulseInstr cls level, pulseInstr_wellFormed W cls level⟩

/-! ### Reserved codes -/

theorem decodeEvt_of_reserved (W : Widths) {w : EventWord} (h : EventWord.code w = 0 ∨ EventWord.code w = 7) :
    decodeEvt W w = .error (.reservedEvent (EventWord.code w)) := by
  unfold decodeEvt
  rcases h with h | h <;> simp only [h]

theorem decodePc_of_reserved {c : PulseCode} (h : codeClass c = 6#3 ∨ codeClass c = 7#3) :
    decodePc c = .error (.reservedClass (codeClass c).toNat) := by
  simp only [decodePc, decodeClass_of_reserved h]

theorem execSlot_of_reserved {c : PulseCode} (h : codeClass c = 6#3 ∨ codeClass c = 7#3) (s : State) :
    execSlot c s = .refused .reservedPulseCode := by
  simp only [execSlot, decodeClass_of_reserved h]

theorem assembleLoop_of_reserved {n : Nat} {s : State} (hn : 1 ≤ n)
    (h : codeClass (s.readCode s.pos) = 6#3 ∨ codeClass (s.readCode s.pos) = 7#3) :
    assembleLoop n s = .refused .reservedPulseCode := by
  obtain ⟨n, rfl⟩ := Nat.exists_eq_add_of_le' hn
  exact andThen_eq_refused.2 (.inl (execSlot_of_reserved h s))

/-- ASSEMBLE is refused at slot 0 already (41_frame_assembler.md R151). -/
theorem execAssemble_of_reserved {s : State} (hc : s.configured = true) (hcap : 1 ≤ s.profile.cap)
    (h : codeClass (s.readCode 0) = 6#3 ∨ codeClass (s.readCode 0) = 7#3) :
    execAssemble s = .refused .reservedPulseCode :=
  (withProfile_of_configured hc).trans
    (andThen_eq_refused.2 (.inl (assembleLoop_of_reserved (s := s.beginAssemble) hcap h)))

/-- Settles O5, the three formats and ASSEMBLE in turn. -/
theorem reservedCodesAreRefused : Obligations.ReservedCodesAreRefused := by
  refine ⟨fun s w rest hin hcode => step_of_undecodable hin (decodeEvt_of_reserved s.par.widths hcode), ?_,
    fun W => ⟨rfl, rfl⟩, fun W c => decodePc_of_reserved, fun s => execAssemble_of_reserved⟩
  intro W i hevent hwide
  rw [decode_encode_of_event W hevent, if_neg (Bool.eq_false_iff.1 hwide)]

/-- Settles O2: fixed words, evaluated. -/
theorem wordsOfTheTablesDecode : Obligations.WordsOfTheTablesDecode := by
  unfold Obligations.WordsOfTheTablesDecode
  decide

end Sys2Proof.Machine
end

section
/-!
PROOFS. ASSEMBLE inverts the line code (30_encoding.md R93, 41_frame_assembler.md R140 to R150).
-/

namespace Sys2Proof.Machine

/-! ### ASSEMBLE without an abort -/

/-- Where the list function ends without an abort, ASSEMBLE ends ok with its half-bits and its count. -/
theorem execAssemble_of_done {s : State} {hs : List Bool} {n : Nat} (hc : s.configured = true)
    (hview : streamView s.par.seedEmit 0 0#4 0 s.codes = .done hs n) :
    ∃ t, execAssemble s = .next t ∧ t.result = none ∧ t.ac = n ∧ t.hc = hs.length ∧ t.blen = t.hc / 2 ∧
      (∀ k, k < t.blen → t.readBit k = hs.getD (2 * k + 1) false) ∧
      t = { s with hc := t.hc, ac := t.ac, bits := t.bits, blen := t.blen, pos := t.pos, result := t.result } := by
  have hloop := assembleLoop_view s.profile.cap s.beginAssemble 0#4 hc (fun h => absurd rfl h) (Nat.zero_le _)
    (Nat.zero_add _).le (Nat.zero_le 4) rfl
  have hcodes : (List.range' s.beginAssemble.pos s.profile.cap).map s.beginAssemble.readCode = s.codes := by
    rw [State.codes, List.range_eq_range']
    rfl
  rw [hcodes, State.beginAssemble_par, State.beginAssemble_pos, State.beginAssemble_ac, hview] at hloop
  obtain ⟨u, hu, hres, hac, -, ⟨hhc, hbits⟩, hframe, -, -⟩ := hloop
  rw [State.beginAssemble_hc, Nat.zero_add] at hhc
  have hend : u.endAssemble s.profile.cap = { u with blen := u.hc / 2 } := by
    unfold State.endAssemble
    rw [hres]
  refine ⟨{ u with blen := u.hc / 2 }, ?_, hres, hac, hhc, rfl, fun k hk => ?_, ?_⟩
  · unfold execAssemble
    rw [withProfile_of_configured hc, hu, andThen_next, hend]
  · have hin : 2 * k + 1 < hs.length := by
      simp only at hk
      omega
    refine (hbits k).trans (if_pos ⟨Nat.zero_le _, ?_⟩)
    rwa [State.beginAssemble_hc, Nat.zero_add]
  · rw [hframe]
    rfl

/-! ### The codes of a line -/

theorem slotView_sw (seed : Bool) (i : Nat) (prev : PulseCode) (level : Bool) :
    slotView seed i prev (composeCode .sw level) = .emits [level] := by
  simp only [slotView, decodeClass_composeCode, (composeCode_fields .sw level).2]

theorem slotView_dw (seed : Bool) (i : Nat) (prev : PulseCode) (level : Bool) :
    slotView seed i prev (composeCode .dw level) = .emits [!level, level] := by
  simp only [slotView, decodeClass_composeCode, (composeCode_fields .dw level).2]

theorem streamView_cons_of_emits {seed : Bool} {i ac n : Nat} {prev c : PulseCode} {cs : List PulseCode}
    {hs rest : List Bool} (hslot : slotView seed i prev c = .emits hs)
    (hrest : streamView seed (i + 1) c ac cs = .done rest n) :
    streamView seed i prev ac (c :: cs) = .done (hs ++ rest) n := by
  simp only [streamView, hslot, hrest, StreamView.after]

theorem codesFrom_cons_self (x : Bool) (run : Nat) (h : List Bool) :
    codesFrom x run (x :: h) = codesFrom x (run + 1) h := if_pos rfl

theorem codesFrom_cons_of_ne {last x : Bool} (hx : x ≠ last) (run : Nat) (h : List Bool) :
    codesFrom last run (x :: h) = composeCode (if run = 1 then .sw else .dw) x :: codesFrom x 1 h := if_neg hx

theorem runsAtMostTwo_cons_self {x : Bool} {run : Nat} {h : List Bool} :
    runsAtMostTwo x run (x :: h) = true ↔ run + 1 ≤ 2 ∧ runsAtMostTwo x (run + 1) h = true := by
  simp only [runsAtMostTwo, if_true, Bool.and_eq_true, decide_eq_true_eq]

theorem runsAtMostTwo_cons_of_ne {last x : Bool} {run : Nat} {h : List Bool} (hx : x ≠ last) :
    runsAtMostTwo last run (x :: h) = true ↔ run ≤ 2 ∧ runsAtMostTwo x 1 h = true := by
  simp only [runsAtMostTwo, if_neg hx, Bool.and_eq_true, decide_eq_true_eq]

/-! ### The levels a line's codes emit -/

/-- The levels `h` after `last` that their codes emit: all of them but a last one that repeats the level before it,
since no edge has ended it (41_frame_assembler.md R142). -/
def emittedLevels (last : Bool) (h : List Bool) : List Bool := if endsRepeated last h then h.dropLast else h

theorem emittedLevels_length (last : Bool) (h : List Bool) :
    (emittedLevels last h).length = if endsRepeated last h then h.length - 1 else h.length := by
  unfold emittedLevels
  split
  · exact List.length_dropLast
  · rfl

theorem emittedLevels_getD {last : Bool} {h : List Bool} {k : Nat} (hk : k < (emittedLevels last h).length) :
    (emittedLevels last h).getD k false = h.getD k false := by
  obtain ⟨rest, hrest⟩ : emittedLevels last h <+: h := by
    unfold emittedLevels
    split
    · exact h.dropLast_prefix
    · exact List.prefix_rfl
  conv_rhs => rw [← hrest]
  exact (List.getD_append _ _ _ _ hk).symm

theorem emittedLevels_cons_cons (last x y : Bool) (h : List Bool) :
    emittedLevels last (x :: y :: h) = x :: emittedLevels x (y :: h) := by
  simp only [emittedLevels, endsRepeated, List.dropLast_cons_cons]
  split <;> rfl

/-- A level other than the one before it is emitted. -/
theorem emittedLevels_cons_of_ne {last x : Bool} (hx : x ≠ last) (h : List Bool) :
    emittedLevels last (x :: h) = x :: emittedLevels x h := by
  cases h with
  | nil => simp [emittedLevels, endsRepeated, hx]
  | cons y ys => exact emittedLevels_cons_cons last x y ys

/-- The codes of a line emit its levels: after a run of one half-bit the levels that follow it, after a run of two its
second half-bit, which no code has emitted yet, and the levels that follow. -/
theorem streamView_codesFrom (seed : Bool) (i : Nat) (prev : PulseCode) (last : Bool) (h : List Bool) :
    (runsAtMostTwo last 1 h = true →
      streamView seed i prev 0 (codesFrom last 1 h) = .done (emittedLevels last h) 0) ∧
    (runsAtMostTwo last 2 h = true →
      streamView seed i prev 0 (codesFrom last 2 h) = .done (emittedLevels last (last :: h)) 0) := by
  induction h generalizing i prev last with
  | nil => exact ⟨fun _ => rfl, fun _ => by cases last <;> rfl⟩
  | cons x xs ih =>
    by_cases hx : x = last
    · -- the run grows to two, and a run of two does not grow
      subst hx
      refine ⟨fun hruns => ?_, fun hruns => ?_⟩
      · rw [codesFrom_cons_self]
        exact (ih i prev x).2 (runsAtMostTwo_cons_self.1 hruns).2
      · exact absurd (runsAtMostTwo_cons_self.1 hruns).1 (by decide)
    · -- an edge: SW emits the new level, DW the last one again before it
      refine ⟨fun hruns => ?_, fun hruns => ?_⟩
      · have hrest := (ih (i + 1) (composeCode .sw x) x).1 ((runsAtMostTwo_cons_of_ne hx).1 hruns).2
        rw [codesFrom_cons_of_ne hx, if_pos rfl, streamView_cons_of_emits (slotView_sw seed i prev x) hrest,
          emittedLevels_cons_of_ne hx, List.singleton_append]
      · have hrest := (ih (i + 1) (composeCode .dw x) x).1 ((runsAtMostTwo_cons_of_ne hx).1 hruns).2
        have hlast : (!x) = last := (Bool.eq_not.2 (Ne.symm hx)).symm
        rw [codesFrom_cons_of_ne hx, if_neg (by decide), streamView_cons_of_emits (slotView_dw seed i prev x) hrest,
          hlast, emittedLevels_cons_cons, emittedLevels_cons_of_ne hx]
        rfl

/-- Settles O19: ASSEMBLE is the list function (`execAssemble_of_done`), and that gives the levels back
(`streamView_codesFrom`). -/
theorem lineCodeIsRecovered : Obligations.LineCodeIsRecovered := by
  intro s last h hc hcodes hruns
  have hview : streamView s.par.seedEmit 0 0#4 0 s.codes = .done (emittedLevels last h) 0 :=
    hcodes ▸ (streamView_codesFrom _ 0 0#4 last h).1 hruns
  obtain ⟨t, ht, hres, hac, hhc, hblen, hbits, hframe⟩ := execAssemble_of_done hc hview
  refine ⟨t, ht, hres, hac, hhc.trans (emittedLevels_length last h), hblen, fun k hk => ?_, ?_⟩
  · exact (hbits k hk).trans (emittedLevels_getD (by omega))
  · rw [hac, hres] at hframe
    exact hframe

end Sys2Proof.Machine
end

section
/-!
PROOFS. EDGE and the classifier (40_edge_sampler.md R120 to R126).
-/

namespace Sys2Proof.Machine

/-! ### EDGE -/

/-- EDGE while not armed (40_edge_sampler.md R122, R123). -/
theorem execEdge_unarmed {s : State} (level : Bool) (now : Time) (ha : s.armed = false) :
    execEdge level now s = .next { s with lastEdgeTime := now } :=
  if_neg (Bool.eq_false_iff.1 ha)

/-- Settles O8: EDGE stops at the armed gate. -/
theorem edgeWhileUnarmedMovesOnlyTheTimestamp : Obligations.EdgeWhileUnarmedMovesOnlyTheTimestamp :=
  fun _ level now ha => execEdge_unarmed level now ha

/-- Storing a code disarms exactly when it fills the buffer (40_edge_sampler.md R126). -/
theorem storeCode_armed_eq_false {s : State} (ha : s.armed = true) (cap : Nat) (c : PulseCode) :
    (s.storeCode cap c).armed = false ↔ s.wr + 1 = cap := by
  rw [State.storeCode_armed, ha, Bool.true_and, Bool.not_eq_false', decide_eq_true_eq]

/-- Settles O9: EDGE is one `storeCode` of the composed code (`execEdge_armed`), whose slot, neighbours and disarming have
a lemma each. -/
theorem edgeWhileArmedAppendsTheClassifiedCode : Obligations.EdgeWhileArmedAppendsTheClassifiedCode := by
  intro s level now ha hc hw
  obtain ⟨hcls, hlevel⟩ :=
    composeCode_fields (classify (interval s.par.widths.time now s.lastEdgeTime) s.profile) level
  refine ⟨_, execEdge_armed level now ha hc hw, rfl, ?_, ?_, ?_, fun i hi => ?_⟩
  · exact storeCode_armed_eq_false (s := { s with lastEdgeTime := now }) ha _ _
  · rw [storeCode_readCode, if_pos rfl, hlevel]
  · rw [storeCode_readCode, if_pos rfl, hcls]
  · rw [storeCode_readCode, if_neg hi]
    rfl

/-! ### The classifier -/

/-- Everything CLASSIFY can answer, in the order of its tests (40_edge_sampler.md R124). -/
theorem classify_cases (dt : Nat) (p : DeviceProfile) :
    (2 * p.minDouble ≤ dt ∧ classify dt p = .lt) ∨
    (dt < 2 * p.minDouble ∧ p.maxDouble < dt ∧ classify dt p = .ld) ∨
    (dt < 2 * p.minDouble ∧ dt ≤ p.maxDouble ∧ p.minDouble ≤ dt ∧ classify dt p = .dw) ∨
    (dt ≤ p.maxDouble ∧ dt < p.minDouble ∧ p.maxSingle < dt ∧ classify dt p = .bt) ∨
    (dt < p.minDouble ∧ dt ≤ p.maxSingle ∧ dt < p.minSingle ∧ classify dt p = .sh) ∨
    (dt < p.minDouble ∧ dt ≤ p.maxSingle ∧ p.minSingle ≤ dt ∧ classify dt p = .sw) := by
  unfold classify
  split_ifs with hlt hld hdw hbt hsh
  · exact .inl ⟨hlt, rfl⟩
  · exact .inr (.inl ⟨by omega, hld, rfl⟩)
  · exact .inr (.inr (.inl ⟨by omega, by omega, hdw, rfl⟩))
  · exact .inr (.inr (.inr (.inl ⟨by omega, by omega, hbt, rfl⟩)))
  · exact .inr (.inr (.inr (.inr (.inl ⟨by omega, by omega, hsh, rfl⟩))))
  · exact .inr (.inr (.inr (.inr (.inr ⟨by omega, by omega, by omega, rfl⟩))))

/-- The thresholds of a well-formed profile are in order (00_scope.md R8). -/
theorem thresholds_ordered {W : Nat} {p : DeviceProfile} (h : p.wellFormed W = true) :
    p.minSingle ≤ p.maxSingle ∧ p.maxSingle < p.minDouble ∧ p.minDouble ≤ p.maxDouble := by
  simp only [DeviceProfile.wellFormed, Bool.and_eq_true, decide_eq_true_eq, and_assoc] at h
  exact ⟨h.1, h.2.1, h.2.2.1⟩

/-- Settles O10: in each of the six cases of `classify_cases` the order of the thresholds leaves one band. -/
theorem classifyIsThePartition : Obligations.ClassifyIsThePartition := by
  intro W p dt hwf
  obtain ⟨hsingle, hgap, hdouble⟩ := thresholds_ordered hwf
  rcases classify_cases dt p with
    ⟨hlt, h⟩ | ⟨hlt, hld, h⟩ | ⟨hlt, hld, hdw, h⟩ | ⟨hld, hdw, hbt, h⟩ | ⟨hdw, hbt, hsh, h⟩ | ⟨hdw, hbt, hsw, h⟩
  all_goals
    simp only [h, reduceCtorEq, true_iff, false_iff]
    omega

/-! ### Intervals -/

/-- Settles O11: modulo `2^W` the wrapped timestamp is `t + d`, and subtracting `t` leaves `d`. -/
theorem intervalsAreModular : Obligations.IntervalsAreModular := by
  intro W t d
  have hmod : (((t + d) % 2 ^ W : Nat) - (t : Int)) % ((2 ^ W : Nat) : Int) = ((d % 2 ^ W : Nat) : Int) := by
    rw [Int.natCast_emod, Int.emod_sub_emod, Int.natCast_add, add_sub_cancel_left, Int.natCast_emod]
  rw [interval, hmod, Int.toNat_natCast]

end Sys2Proof.Machine
end

section
/-!
PROOFS. The FrameAssembler (41_frame_assembler.md R140 to R151): what each PulseCode emits or counts, ASSEMBLE as the run
of its slots' operations, and ASSEMBLE as the list function of Machine/StreamView.lean.
-/

namespace Sys2Proof.Machine

/-! ### A PulseCode that emits -/

/-- A PulseCode that emits `hs` writes what EMIT writes, and moves to the next slot. -/
theorem emitAll_nextSlot_spec (s : State) (hs : List Bool) :
    Emitted s (s.emitAll hs).nextSlot hs ∧
      (s.emitAll hs).nextSlot =
        { s with hc := (s.emitAll hs).nextSlot.hc, bits := (s.emitAll hs).nextSlot.bits, pos := s.pos + 1
                 result := none } := by
  refine ⟨(emitted_emitAll s hs).congr rfl rfl rfl rfl, ?_⟩
  have hframe : AsmFrame s (s.emitAll hs).nextSlot := (emitAll_frame s hs).trans (.nextSlot _)
  unfold AsmFrame at hframe
  simpa using hframe

theorem emit_one {s : State} (b : Bool) (hc : s.configured = true) (h : s.hc < 2 * s.profile.cap) :
    andThen (emit b s) (fun t => .next t.nextSlot) = .next (s.emitAll [b]).nextSlot := by
  rw [emit_next b hc h, andThen_next]
  rfl

/-- Settles O12: SW is one EMIT (`emit_one`). -/
theorem swEmitsItsLevel : Obligations.SwEmitsItsLevel := fun s L hc hroom =>
  ⟨_, emit_one L hc hroom, emitAll_nextSlot_spec s [L]⟩

/-- Settles O13: DW is two EMITs (`emit_two`). -/
theorem dwEmitsComplementThenLevel : Obligations.DwEmitsComplementThenLevel := fun s L hc hroom =>
  ⟨_, emit_two (!L) L hc hroom, emitAll_nextSlot_spec s [!L, L]⟩

/-! ### ANOM, case by case (41_frame_assembler.md R147, R149) -/

section Anom

variable {s : State}

theorem nextSlot_of_slot_zero (hpos : s.pos = 0) : s.nextSlot = { s with pos := 1, result := none } := by
  rw [State.nextSlot, hpos]

theorem anom_of_slot_zero (hpos : s.pos = 0) : anom s = .next { s with pos := 1, result := none } :=
  (if_pos hpos).trans (congrArg _ (nextSlot_of_slot_zero hpos))

theorem anom_of_ac_lt (hpos : s.pos ≠ 0) (hac : s.ac < 4) :
    anom s = .next { s with ac := s.ac + 1, pos := s.pos + 1, result := none } :=
  (if_neg hpos).trans (if_neg (show ¬ 5 ≤ s.ac + 1 by omega))

theorem anom_of_le_ac (hpos : s.pos ≠ 0) (hac : 4 ≤ s.ac) :
    anom s = .next { s with ac := s.ac + 1, result := some .anomalyOverrun } :=
  (if_neg hpos).trans (if_pos (show 5 ≤ s.ac + 1 by omega))

end Anom

/-- Settles O14: SH, BT and LD are ANOM. -/
theorem anomaliesCountAndTheFifthAborts : Obligations.AnomaliesCountAndTheFifthAborts := by
  intro s L i hi
  have hanom : exec i s = anom s := by rcases hi with rfl | rfl | rfl <;> rfl
  rw [hanom]
  exact ⟨anom_of_slot_zero, anom_of_ac_lt, anom_of_le_ac⟩

/-! ### LT, case by case (41_frame_assembler.md R146) -/

section Lt

variable {s : State} (level : Bool)

theorem afterDw1_iff_composeCode :
    s.afterDw1 = true ↔ s.pos ≠ 0 ∧ s.readCode (s.pos - 1) = composeCode .dw true := afterDw1_iff s

theorem not_afterDw1_of_slot_zero (hpos : s.pos = 0) : ¬ s.afterDw1 = true :=
  fun h => (afterDw1_iff_composeCode.1 h).1 hpos

theorem execLt_of_afterDw1 (hpos : s.pos ≠ 0) (hprev : s.readCode (s.pos - 1) = composeCode .dw true)
    (hc : s.configured = true) (hroom : s.hc + 1 < 2 * s.profile.cap) :
    execLt level s = .next (s.emitAll [false, true]).nextSlot :=
  (if_pos (afterDw1_iff_composeCode.2 ⟨hpos, hprev⟩)).trans (emit_two false true hc hroom)

theorem execLt_of_seed (hpos : s.pos = 0) (hseed : s.par.seedEmit = true) (hc : s.configured = true)
    (hroom : s.hc < 2 * s.profile.cap) : execLt level s = .next (s.emitAll [level]).nextSlot := by
  rw [execLt, if_neg (not_afterDw1_of_slot_zero hpos), if_pos hpos, if_pos hseed, emit_one level hc hroom]

theorem execLt_of_no_seed (hpos : s.pos = 0) (hseed : s.par.seedEmit = false) :
    execLt level s = .next { s with pos := 1, result := none } := by
  rw [execLt, if_neg (not_afterDw1_of_slot_zero hpos), if_pos hpos, hseed, nextSlot_of_slot_zero hpos]
  rfl

theorem execLt_eq_anom (hpos : s.pos ≠ 0) (hprev : s.readCode (s.pos - 1) ≠ composeCode .dw true) :
    execLt level s = anom s := by
  rw [execLt, if_neg fun h => hprev (afterDw1_iff_composeCode.1 h).2, if_neg hpos]

end Lt

/-- Settles O15: the branches of LT, the last of which is ANOM. -/
theorem ltMergesSeedsOrCounts : Obligations.LtMergesSeedsOrCounts := by
  intro s L
  refine ⟨fun hpos hprev hc hroom => ?merged, fun hpos hseed hc hroom => ?seed, execLt_of_no_seed L,
    fun hpos hprev hac => ?counted, fun hpos hprev hac => ?overrun⟩
  case merged => exact ⟨_, execLt_of_afterDw1 L hpos hprev hc hroom, emitAll_nextSlot_spec s [false, true]⟩
  case seed =>
    obtain ⟨hemitted, hframe⟩ := emitAll_nextSlot_spec s [L]
    rw [hpos] at hframe
    exact ⟨_, execLt_of_seed L hpos hseed hc hroom, hemitted, hframe⟩
  case counted => exact (execLt_eq_anom L hpos hprev).trans (anom_of_ac_lt hpos hac)
  case overrun => exact (execLt_eq_anom L hpos hprev).trans (anom_of_le_ac hpos hac)

/-! ### ASSEMBLE runs each slot by exec -/

/-- A slot runs as the operation its code decodes to (41_frame_assembler.md R140). -/
theorem execSlot_of_decodePc_ok {c : PulseCode} {i : Instr} (h : decodePc c = .ok i) (s : State) :
    execSlot c s = exec i s := by
  obtain ⟨cls, level, rfl, rfl⟩ := decodePc_eq_ok.1 h
  rw [execSlot, decodeClass_composeCode, (composeCode_fields cls level).2]
  cases cls <;> rfl

/-- A slot whose code does not decode is refused (41_frame_assembler.md R151). -/
theorem execSlot_of_decodePc_error {c : PulseCode} {e : DecodeError} (h : decodePc c = .error e) (s : State) :
    execSlot c s = .refused .reservedPulseCode := by
  unfold decodePc at h
  unfold execSlot
  cases hcls : decodeClass (codeClass c) with
  | none => rfl
  | some cls =>
    rw [hcls] at h
    cases h

theorem assembleLoop_eq_slotsByExec (n : Nat) (s : State) : assembleLoop n s = slotsByExec n s := by
  induction n generalizing s with
  | zero => rfl
  | succ n ih =>
    rw [assembleLoop, slotsByExec, decode]
    cases hd : decodePc (s.readCode s.pos) with
    | error e => rw [execSlot_of_decodePc_error hd s]; rfl
    | ok i =>
      rw [execSlot_of_decodePc_ok hd s]
      refine congrArg _ (funext fun t => ?_)
      cases hr : t.result with
      | none => simpa using ih t
      | some c => simp

theorem endAssemble_eq_ite (s : State) (cap : Nat) :
    s.endAssemble cap = if s.result = none then { s with blen := s.hc / 2 } else s.loseBits cap := by
  unfold State.endAssemble
  cases s.result <;> rfl

theorem execAssemble_of_configured {s : State} (hc : s.configured = true) :
    execAssemble s =
      andThen (assembleLoop s.profile.cap s.beginAssemble) fun t => .next (t.endAssemble s.profile.cap) :=
  withProfile_of_configured hc

/-- Settles O16: the loop is the run by exec (`assembleLoop_eq_slotsByExec`), and the end tests the same result. -/
theorem assembleRunsEachSlotsPulseCode : Obligations.AssembleRunsEachSlotsPulseCode := by
  intro s hc
  calc exec .assemble s
      = andThen (assembleLoop s.profile.cap s.beginAssemble) fun t => .next (t.endAssemble s.profile.cap) :=
        execAssemble_of_configured hc
    _ = andThen (slotsByExec s.profile.cap s.beginAssemble) fun t =>
          .next (if t.result = none then { t with blen := t.hc / 2 } else t.loseBits s.profile.cap) := by
        simp only [assembleLoop_eq_slotsByExec, endAssemble_eq_ite]

/-! ### ASSEMBLE is the list function -/

/-- The kept half-bits are the odd-numbered ones, counted from 0 (41_frame_assembler.md R148). -/
theorem keptHalves_getD : ∀ (hs : List Bool) (k : Nat), (keptHalves hs).getD k false = hs.getD (2 * k + 1) false
  | [], _ => rfl
  | [_], _ => rfl
  | _ :: _ :: _, 0 => rfl
  | _ :: _ :: hs, k + 1 => keptHalves_getD hs k

/-- What `assembleLoop_view` reads at the start of ASSEMBLE is the list function of the slots' codes. -/
theorem streamView_beginAssemble (s : State) :
    streamView s.beginAssemble.par.seedEmit s.beginAssemble.pos 0#4 s.beginAssemble.ac
        ((List.range' s.beginAssemble.pos s.profile.cap).map s.beginAssemble.readCode) =
      streamView s.par.seedEmit 0 0#4 0 s.codes := by
  rw [State.codes, List.range_eq_range']
  rfl

section View

variable {s : State} (hc : s.configured = true)

include hc

/-- Where the list function aborts, ASSEMBLE ends with AnomalyOverrun, inside its bounds (41_frame_assembler.md R149). -/
theorem execAssemble_of_overrun (hview : streamView s.par.seedEmit 0 0#4 0 s.codes = .overrun) :
    ∃ t, execAssemble s = .next t ∧ t.result = some .anomalyOverrun ∧ t.ac = 5 ∧ t.hc ≤ 2 * s.profile.cap ∧
      t.blen ≤ s.profile.cap ∧
      t = { s with hc := t.hc, ac := t.ac, bits := t.bits, blen := t.blen, pos := t.pos, result := t.result
                   free := t.free } := by
  have hloop := assembleLoop_view s.profile.cap s.beginAssemble 0#4 hc (absurd rfl) (Nat.zero_le _)
    (Nat.zero_add _).le (Nat.zero_le 4) rfl
  rw [streamView_beginAssemble, hview] at hloop
  obtain ⟨u, hu, hres, hac, hframe, hhc⟩ := hloop
  have hend : u.endAssemble s.profile.cap = u.loseBits s.profile.cap := by
    rw [endAssemble_eq_ite, if_neg (by rw [hres]; exact Option.some_ne_none _)]
  refine ⟨u.loseBits s.profile.cap, ?_, hres, hac, hhc, ?_, ?_⟩
  · rw [execAssemble_of_configured hc, hu, andThen_next, hend]
  · exact Nat.le_of_lt_succ (Nat.mod_lt _ (Nat.succ_pos _))
  · rw [hframe]
    rfl

/-- Where the list function meets a reserved code, ASSEMBLE is refused (41_frame_assembler.md R151). -/
theorem execAssemble_of_view_reserved (hview : streamView s.par.seedEmit 0 0#4 0 s.codes = .reserved) :
    execAssemble s = .refused .reservedPulseCode := by
  have hloop := assembleLoop_view s.profile.cap s.beginAssemble 0#4 hc (absurd rfl) (Nat.zero_le _)
    (Nat.zero_add _).le (Nat.zero_le 4) rfl
  rw [streamView_beginAssemble, hview] at hloop
  exact (execAssemble_of_configured hc).trans (andThen_eq_refused.2 (.inl hloop))

end View

/-- Settles O17, by the three endings of the list function. -/
theorem assembleMatchesTheListFunction : Obligations.AssembleMatchesTheListFunction := by
  intro s hc
  split
  case h_1 hs n hview =>
    obtain ⟨t, ht, hres, hac, hhc, hblen, hbits, hframe⟩ := execAssemble_of_done hc hview
    refine ⟨t, ht, hres, hhc, hac, by rw [hblen, hhc], fun k hk => ?_, hres ▸ hframe⟩
    rw [hbits k hk, keptHalves_getD]
  case h_2 hview =>
    obtain ⟨t, ht, hres, hac, -, hblen, hframe⟩ := execAssemble_of_overrun hc hview
    exact ⟨t, ht, hres, hac, hblen, hframe⟩
  case h_3 hview => exact execAssemble_of_view_reserved hc hview

/-! ### The anomaly count decides how ASSEMBLE ends -/

/-- One code emits at most two half-bits (41_frame_assembler.md R141 to R147). -/
theorem slotView_emits_length {seed : Bool} {i : Nat} {prev c : PulseCode} {hs : List Bool}
    (h : slotView seed i prev c = .emits hs) : hs.length ≤ 2 := by
  unfold slotView at h
  split at h
  case h_1 | h_2 =>
    cases h
    simp
  case h_3 | h_4 | h_5 =>
    split at h <;> cases h
    exact Nat.zero_le 2
  case h_6 => split_ifs at h <;> cases h <;> simp
  case h_7 => cases h

section Count

variable {seed : Bool} {i ac n : Nat} {prev c : PulseCode} {cs : List PulseCode} {hs : List Bool}

/-- The two ways a list of codes can go past its first code to the end. -/
theorem streamView_cons_eq_done (h : streamView seed i prev ac (c :: cs) = .done hs n) :
    (∃ first rest, slotView seed i prev c = .emits first ∧ streamView seed (i + 1) c ac cs = .done rest n ∧
      hs = first ++ rest) ∨
    (slotView seed i prev c = .counts ∧ ac + 1 < 5 ∧ streamView seed (i + 1) c (ac + 1) cs = .done hs n) := by
  rw [streamView] at h
  split at h
  case h_1 first hslot =>
    cases hrest : streamView seed (i + 1) c ac cs with
    | done rest m =>
      rw [hrest] at h
      cases h
      exact .inl ⟨first, rest, hslot, rfl, rfl⟩
    | overrun | reserved =>
      rw [hrest] at h
      cases h
  case h_2 hslot =>
    split at h
    case isTrue => cases h
    case isFalse hlt => exact .inr ⟨hslot, by omega, h⟩
  case h_3 => cases h

/-- The ways a list of codes can abort: at its first code or later. -/
theorem streamView_cons_eq_overrun (h : streamView seed i prev ac (c :: cs) = .overrun) :
    (∃ first, slotView seed i prev c = .emits first ∧ streamView seed (i + 1) c ac cs = .overrun) ∨
    (slotView seed i prev c = .counts ∧
      (5 ≤ ac + 1 ∨ streamView seed (i + 1) c (ac + 1) cs = .overrun)) := by
  rw [streamView] at h
  split at h
  case h_1 first hslot =>
    cases hrest : streamView seed (i + 1) c ac cs with
    | overrun => exact .inl ⟨first, hslot, rfl⟩
    | done _ _ | reserved =>
      rw [hrest] at h
      cases h
  case h_2 hslot =>
    split at h
    case isTrue hge => exact .inr ⟨hslot, .inl hge⟩
    case isFalse => exact .inr ⟨hslot, .inr h⟩
  case h_3 => cases h

theorem countedAnomalies_cons_of_emits (h : slotView seed i prev c = .emits hs) :
    countedAnomalies seed i prev (c :: cs) = countedAnomalies seed (i + 1) c cs := by
  rw [countedAnomalies, h, if_neg (by simp), Nat.zero_add]

theorem countedAnomalies_cons_of_counts (h : slotView seed i prev c = .counts) :
    countedAnomalies seed i prev (c :: cs) = 1 + countedAnomalies seed (i + 1) c cs := by
  rw [countedAnomalies, if_pos h]

/-- A list of codes that does not abort counts every anomaly, stays below the limit, and emits at most two half-bits for
each code. -/
theorem streamView_done_bounds (hac : ac ≤ 4) (h : streamView seed i prev ac cs = .done hs n) :
    n = ac + countedAnomalies seed i prev cs ∧ n ≤ 4 ∧ hs.length ≤ 2 * cs.length := by
  induction cs generalizing i prev ac hs with
  | nil =>
    cases h
    exact ⟨rfl, hac, Nat.zero_le _⟩
  | cons c cs ih =>
    rcases streamView_cons_eq_done h with ⟨first, rest, hslot, hrest, rfl⟩ | ⟨hslot, hlt, hrest⟩
    · obtain ⟨hn, hle, hlen⟩ := ih hac hrest
      have hfirst := slotView_emits_length hslot
      rw [countedAnomalies_cons_of_emits hslot, List.length_append, List.length_cons]
      exact ⟨hn, hle, by omega⟩
    · obtain ⟨hn, hle, hlen⟩ := ih (by omega) hrest
      rw [countedAnomalies_cons_of_counts hslot, List.length_cons]
      exact ⟨by omega, hle, by omega⟩

/-- A list of codes that aborts has counted up to the limit (41_frame_assembler.md R149). -/
theorem five_le_of_streamView_overrun (h : streamView seed i prev ac cs = .overrun) :
    5 ≤ ac + countedAnomalies seed i prev cs := by
  induction cs generalizing i prev ac with
  | nil => cases h
  | cons c cs ih =>
    rcases streamView_cons_eq_overrun h with ⟨first, hslot, hrest⟩ | ⟨hslot, hge | hrest⟩
    · rw [countedAnomalies_cons_of_emits hslot]
      exact ih hrest
    · rw [countedAnomalies_cons_of_counts hslot]
      omega
    · have := ih hrest
      rw [countedAnomalies_cons_of_counts hslot]
      omega

end Count

theorem codes_length (s : State) : s.codes.length = s.profile.cap := by
  rw [State.codes, List.length_map, List.length_range]

/-- Without a reserved class in a slot the list function has a meaning. -/
theorem streamView_codes_ne_reserved {s : State} {seed : Bool} {i ac : Nat} {prev : PulseCode}
    (hslots : ∀ i, i < s.profile.cap → decodeClass (codeClass (s.readCode i)) ≠ none) :
    streamView seed i prev ac s.codes ≠ .reserved := by
  intro h
  obtain ⟨c, hmem, hnone⟩ := streamView_reserved h
  obtain ⟨k, hk, rfl⟩ := List.mem_map.1 hmem
  exact hslots k (List.mem_range.1 hk) hnone

/-- Settles O18: the list function either ends with at most four anomalies counted (`streamView_done_bounds`) or aborts
at the fifth (`five_le_of_streamView_overrun`), and ASSEMBLE is that function. -/
theorem fourAnomaliesPassTheFifthAborts : Obligations.FourAnomaliesPassTheFifthAborts := by
  intro s hc hslots
  cases hview : streamView s.par.seedEmit 0 0#4 0 s.codes with
  | done hs n =>
    obtain ⟨t, ht, hres, hac, hhc, hblen, -, -⟩ := execAssemble_of_done hc hview
    obtain ⟨hn, hle, hlen⟩ := streamView_done_bounds (Nat.zero_le 4) hview
    rw [codes_length] at hlen
    refine ⟨t, ht, ?_, ?_, by omega, by omega, by omega⟩
    · simp only [hres, reduceCtorEq, false_iff]
      omega
    · simp only [hres, true_iff]
      omega
  | overrun =>
    obtain ⟨t, ht, hres, hac, hhc, hblen, -⟩ := execAssemble_of_overrun hc hview
    have hfive := five_le_of_streamView_overrun hview
    refine ⟨t, ht, ?_, ?_, by omega, hhc, hblen⟩
    · simp only [hres, true_iff]
      omega
    · simp only [hres, reduceCtorEq, false_iff]
      omega
  | reserved => exact absurd hview (streamView_codes_ne_reserved hslots)

end Sys2Proof.Machine
end

section
/-!
PROOFS. The FrameSynchronizer (42_frame_synchronizer.md): the three ends of SYNC, and that a telegram comes back as its
bytes, from the BitStream through SYNC and TRIM and from a capture through a whole POLL.
-/

namespace Sys2Proof.Machine

/-! ### Runs of a stream -/

section Congr

variable {f g : Nat → Bool} {blen : Nat} (h : ∀ k, k < blen → f k = g k)

include h

/-- A run lies inside the stream. -/
theorem runAt_congr (q : Nat) : RunAt f blen q ↔ RunAt g blen q :=
  and_congr_right fun hin => forall₂_congr fun m hm => by rw [h (q + m) (by omega)]

theorem firstRunAt_congr (q : Nat) : FirstRunAt f blen q ↔ FirstRunAt g blen q :=
  and_congr (runAt_congr h q) (forall₂_congr fun r _ => not_congr (runAt_congr h r))

end Congr

theorem not_runAt_of_short {bit : Nat → Bool} {blen : Nat} (h : blen < 16) (q : Nat) : ¬ RunAt bit blen q :=
  fun ⟨hin, _⟩ => by omega

theorem invert_readBit_of_lt (s : State) {k : Nat} (hk : k < s.blen) : s.invert.readBit k = !s.readBit k :=
  (invert_readBit s k).trans (if_pos hk)

/-! ### The three ends of SYNC -/

/-- Where a run was found, the frame starts at the first 0 after it, and the bits left there decide the result
(42_frame_synchronizer.md R162, R165). -/
theorem locate_spec {s : State} {q : Nat} (hq : RunAt s.readBit s.blen q) (p : DeviceProfile) (inv : Bool) :
    FirstZeroFrom s.readBit s.blen (q + 16) (s.locate p inv q).start ∧
      ((s.locate p inv q).result = some .frameTooShort ↔ s.blen - (s.locate p inv q).start < p.minBits) ∧
      ((s.locate p inv q).result = none ↔ p.minBits ≤ s.blen - (s.locate p inv q).start) := by
  obtain ⟨hin, -⟩ := hq
  refine ⟨skip1_spec s.readBit hin, ?_⟩
  rw [State.locate_result]
  split <;> simp only [reduceCtorEq, true_iff, false_iff] <;> omega

section Attempts

variable {s : State} (hc : s.configured = true) (hb : s.blen ≤ s.profile.cap)

include hc hb

theorem exec_sync_of_run {q : Nat} (hq : FirstRunAt s.readBit s.blen q) :
    exec .sync s = .next (s.locate s.profile false q) := by
  have hsynced : s.synced s.profile = s.locate s.profile false q := by
    unfold State.synced
    rw [scan16_eq_some.2 hq]
  rw [← hsynced]
  exact execSync_next hc hb

theorem exec_sync_of_inverted_run (hnone : ∀ r, ¬ RunAt s.readBit s.blen r) {q : Nat}
    (hq : FirstRunAt s.invert.readBit s.blen q) : exec .sync s = .next (s.invert.locate s.profile true q) := by
  have hsynced : s.synced s.profile = s.invert.locate s.profile true q := by
    unfold State.synced
    rw [scan16_eq_none.2 hnone, scan16_eq_some.2 hq]
  rw [← hsynced]
  exact execSync_next hc hb

theorem exec_sync_of_no_run (hnone : ∀ r, ¬ RunAt s.readBit s.blen r)
    (hnone' : ∀ r, ¬ RunAt s.invert.readBit s.blen r) :
    exec .sync s = .next ((s.invert.loseSync s.profile.cap).withResult (some .noFrame)) := by
  have hsynced : s.synced s.profile = (s.invert.loseSync s.profile.cap).withResult (some .noFrame) := by
    unfold State.synced
    rw [scan16_eq_none.2 hnone, scan16_eq_none.2 hnone']
  rw [← hsynced]
  exact execSync_next hc hb

end Attempts

/-- Settles O20: SYNC locates the run in the stream itself (`exec_sync_of_run`, `locate_spec`). -/
theorem syncTakesTheFirstRun : Obligations.SyncTakesTheFirstRun := by
  intro s q hc hb hq
  obtain ⟨hstart, hshort, hlong⟩ := locate_spec hq.1 s.profile false
  exact ⟨_, exec_sync_of_run hc hb hq, rfl, rfl, hstart, hshort, hlong, rfl⟩

/-- Settles O21: SYNC locates the run in the inverted stream, which below `blen` is the complement. -/
theorem syncRetriesOnTheComplement : Obligations.SyncRetriesOnTheComplement := by
  intro s q hc hb hnone hq
  have hflip : ∀ k, k < s.blen → s.invert.readBit k = !s.readBit k := fun _ => invert_readBit_of_lt s
  have hq' : FirstRunAt s.invert.readBit s.blen q := (firstRunAt_congr hflip q).2 hq
  obtain ⟨hstart, hshort, hlong⟩ := locate_spec (s := s.invert) hq'.1 s.profile true
  exact ⟨_, exec_sync_of_inverted_run hc hb hnone hq', rfl, rfl, invert_readBit s, firstZeroFrom_congr hflip hstart,
    hshort, hlong, rfl⟩

/-- Settles O22: neither attempt finds a run, and INVERT was the only write to the stream. -/
theorem syncWithoutARunIsNoFrame : Obligations.SyncWithoutARunIsNoFrame := by
  intro s hc hb h
  obtain ⟨hnone, hnone'⟩ : (∀ r, ¬ RunAt s.readBit s.blen r) ∧ ∀ r, ¬ RunAt s.invert.readBit s.blen r := by
    rcases h with ⟨hnone, hcompl⟩ | hshort
    · exact ⟨hnone, fun r hr => hcompl r ((runAt_congr (fun _ => invert_readBit_of_lt s) r).1 hr)⟩
    · exact ⟨not_runAt_of_short hshort, not_runAt_of_short hshort⟩
  exact ⟨_, exec_sync_of_no_run hc hb hnone hnone', rfl, invert_readBit s, rfl⟩

/-! ### Inverting twice -/

theorem invert_invert_readBit (s : State) : s.invert.invert.readBit = s.readBit := by
  funext k
  rw [invert_readBit, invert_readBit, State.invert_blen]
  split
  · exact Bool.not_not _
  · rfl

/-- What SYNC reports depends on what the stream reads as, its length and the count of drawn free values, not on how the
bit space holds it. -/
theorem synced_congr {s t : State} (hread : t.readBit = s.readBit) (hblen : t.blen = s.blen) (hfree : t.free = s.free)
    (p : DeviceProfile) :
    (t.synced p).result = (s.synced p).result ∧ (t.synced p).syncPos = (s.synced p).syncPos ∧
      (t.synced p).start = (s.synced p).start ∧ (t.synced p).inverted = (s.synced p).inverted := by
  have hinv : t.invert.readBit = s.invert.readBit := by
    funext k
    rw [invert_readBit, invert_readBit, hread, hblen]
  unfold State.synced
  rw [hread, hinv, hblen]
  cases scan16 s.readBit s.blen with
  | some q => simp only [State.locate, hread, hblen, and_self]
  | none =>
    cases scan16 s.invert.readBit s.blen with
    | some q => simp [State.locate_result, State.locate_start, hinv, hblen]
    | none => simp [hfree]

/-- Settles O23: the stream inverted twice reads as before (`invert_invert_readBit`), and SYNC reads no more of it. -/
theorem doubleInversionIsIdentity : Obligations.DoubleInversionIsIdentity := fun s p =>
  ⟨congrFun (invert_invert_readBit s), synced_congr (invert_invert_readBit s) rfl rfl p⟩

/-! ### The bits of a telegram -/

theorem getD_map_not {l : List Bool} {k : Nat} (hk : k < l.length) :
    (l.map fun b => !b).getD k false = !l.getD k false := by
  rw [List.getD_eq_getElem _ _ (by rwa [List.length_map]), List.getD_eq_getElem _ _ hk, List.getElem_map]

theorem telegram_getD_preamble (bytes : List Byte) {k : Nat} (hk : k < 16) :
    (telegram bytes).getD k false = true := by
  rw [telegram, List.getD_append _ _ _ _ (by rwa [List.length_replicate])]
  exact List.getD_replicate _ hk

theorem telegram_getD_byteFrame {bytes : List Byte} {k m : Nat} (hk : k < bytes.length) (hm : m < 10) :
    (telegram bytes).getD (16 + 10 * k + m) false = (byteFrame (bytes.getD k 0#8)).getD m false := by
  have hframes := flatMap_byteFrame_getD bytes [] k m hk hm
  rw [List.append_nil] at hframes
  rw [telegram, List.getD_append_right _ _ _ _ (by rw [List.length_replicate, Config.syncLen]; omega),
    List.length_replicate, ← hframes]
  congr 1
  rw [Config.syncLen]
  omega

/-- Sixteen bits in a row of a telegram's complement hold a 0: a preamble bit's complement, or that of the stop bit that
ends the byte frame they begin in (30_encoding.md R96, R108). -/
theorem telegram_complement_no_run {bit : Nat → Bool} {bytes : List Byte}
    (hbit : ∀ k, k < (telegram bytes).length → bit k = !(telegram bytes).getD k false) (q : Nat) :
    ¬ RunAt bit (telegram bytes).length q := by
  rintro ⟨hin, hones⟩
  rw [telegram_length] at hin hbit
  rcases Nat.lt_or_ge q 16 with hq | hq
  · have hone : bit q = true := hones 0 (by omega)
    rw [hbit q (by omega), telegram_getD_preamble bytes hq] at hone
    exact Bool.noConfusion hone
  · obtain ⟨k, m, rfl, hm⟩ : ∃ k m, q = 16 + 10 * k + m ∧ m < 10 :=
      ⟨(q - 16) / 10, (q - 16) % 10, by omega, by omega⟩
    have hone := hones (9 - m) (by omega)
    rw [show 16 + 10 * k + m + (9 - m) = 16 + 10 * k + 9 by omega, hbit _ (by omega),
      telegram_getD_byteFrame (by omega) (by omega)] at hone
    exact Bool.noConfusion hone

/-- A telegram begins with a run, and its frame starts right after it (30_encoding.md R96). -/
theorem telegram_run_at_start {bit : Nat → Bool} {bytes : List Byte}
    (hbit : ∀ k, k < (telegram bytes).length → bit k = (telegram bytes).getD k false) :
    FirstRunAt bit (telegram bytes).length 0 ∧ FirstZeroFrom bit (telegram bytes).length (0 + 16) 16 := by
  have hlen := telegram_length bytes
  have hrun : RunAt bit (telegram bytes).length 0 := by
    refine ⟨by omega, fun m hm => ?_⟩
    rw [Nat.zero_add, hbit m (by omega), telegram_getD_preamble bytes hm]
  refine ⟨⟨hrun, fun r hr => absurd hr (Nat.not_lt_zero r)⟩, le_rfl, by omega, ?_, fun k _ _ => by omega⟩
  rcases Nat.eq_zero_or_pos bytes.length with hempty | hpos
  · exact .inl (by omega)
  · right
    rw [hbit 16 (by omega)]
    exact telegram_getD_byteFrame (k := 0) (m := 0) hpos (by omega)

/-- Settles O26: without a run in the complement (`telegram_complement_no_run`) SYNC retries (O21), and finds the
telegram's own preamble. -/
theorem complementOfATelegramHasNoRun : Obligations.ComplementOfATelegramHasNoRun := by
  intro s bytes hc hb ⟨hblen, hbits⟩
  rw [List.length_map] at hblen hbits
  have hcompl : ∀ k, k < (telegram bytes).length → s.readBit k = !(telegram bytes).getD k false := fun k hk =>
    (hbits k hk).trans (getD_map_not hk)
  have hback : ∀ k, k < (telegram bytes).length → (!s.readBit k) = (telegram bytes).getD k false := fun k hk => by
    rw [hcompl k hk, Bool.not_not]
  have hnone : ∀ q, ¬ RunAt s.readBit s.blen q := hblen ▸ telegram_complement_no_run hcompl
  obtain ⟨hfirst, hzero⟩ := telegram_run_at_start (bit := fun k => !s.readBit k) hback
  rw [← hblen] at hfirst hzero
  obtain ⟨t, ht, hpos, hinv, hflip, hstart, hshort, hlong, hframe⟩ :=
    syncRetriesOnTheComplement s 0 hc hb hnone hfirst
  have hstart' : t.start = 16 := firstZeroFrom_unique hstart hzero
  have hleft : s.blen - t.start = 10 * bytes.length := by
    rw [hblen, hstart', telegram_length]
    omega
  rw [hleft] at hshort hlong
  refine ⟨hnone, t, ht, hinv, hpos, hstart', ⟨?_, fun k hk => ?_⟩, hshort, hlong⟩
  · rw [hframe]
    exact hblen
  · rw [hflip k, if_pos (by omega), hback k hk]

/-! ### A telegram through SYNC and TRIM (42_frame_synchronizer.md R167, 43_frame_trimmer.md R175) -/

/-- SYNC's two successful attempts as one: the run is found in the stream of polarity `pol`, which the stream is then
left as (42_frame_synchronizer.md R160, R163). -/
theorem exec_sync_of_polarity {s : State} {pol : Bool} {q : Nat} (hc : s.configured = true)
    (hb : s.blen ≤ s.profile.cap) (hnone : pol = true → ∀ r, ¬ RunAt s.readBit s.blen r)
    (hq : FirstRunAt (fun k => s.readBit k ^^ pol) s.blen q) :
    ∃ t, exec .sync s = .next t ∧ t.inverted = pol ∧
      FirstZeroFrom (fun k => s.readBit k ^^ pol) s.blen (q + 16) t.start ∧
      (t.result = none ↔ s.profile.minBits ≤ s.blen - t.start) ∧
      (∀ k, k < s.blen → t.readBit k = (s.readBit k ^^ pol)) ∧ t.blen = s.blen ∧ WorkFrame s t := by
  cases pol with
  | false =>
    simp only [Bool.xor_false] at hq ⊢
    obtain ⟨t, ht, -, hinv, hstart, -, hlong, hframe⟩ := syncTakesTheFirstRun s q hc hb hq
    exact ⟨t, ht, hinv, hstart, hlong, fun k _ => by rw [hframe]; rfl, by rw [hframe], by rw [hframe]; rfl⟩
  | true =>
    simp only [Bool.xor_true] at hq ⊢
    obtain ⟨t, ht, -, hinv, hflip, hstart, -, hlong, hframe⟩ :=
      syncRetriesOnTheComplement s q hc hb (hnone rfl) hq
    exact ⟨t, ht, hinv, hstart, hlong, fun k hk => (hflip k).trans (if_pos hk), by rw [hframe],
      by rw [hframe]; rfl⟩

theorem stream_length (pre post : List Bool) (bytes : List Byte) :
    (pre ++ telegram bytes ++ post).length = pre.length + 16 + 10 * bytes.length + post.length := by
  rw [List.length_append, List.length_append, telegram_length]
  omega

/-- TRIM reads the bytes off a telegram's byte frames. -/
theorem exec_trim_of_telegram {s : State} {pre post : List Bool} {bytes : List Byte} (hc : s.configured = true)
    (hold : s.holdsBits (pre ++ telegram bytes ++ post)) (hstart : s.start = pre.length + 16)
    (hlen : bytes.length = s.profile.len) :
    exec .trim s = .next (s.trimmed s.profile) ∧
      ∀ k, k < s.profile.len → (s.trimmed s.profile).readFrame k = bytes.getD k 0#8 := by
  obtain ⟨hblen, hbits⟩ := hold
  refine ⟨execTrim_next hc ?_, fun k hk => ?_⟩
  · rw [hstart, hblen, stream_length]
    omega
  · rw [trimmed_readFrame, if_pos hk, hstart]
    exact telegram_packByte s.readBit pre post bytes s.blen hblen (hblen ▸ hbits) k (hlen ▸ hk)

/-- The bytes CHKDEV reads are inside the frame (44_device_validator.md R185). -/
theorem devOk_congr {p : DeviceProfile} {f g : Nat → Byte} (hid : p.idInside = true)
    (h : ∀ k, k < p.len → f k = g k) : devOk p f = devOk p g := by
  obtain ⟨hlen, hid1⟩ := (idInside_iff p).1 hid
  rw [Bool.eq_iff_iff, devOk_iff, devOk_iff, h 0 hlen]
  refine and_congr_right fun _ => forall₂_congr fun b hb => ?_
  rw [h 1 (hid1.resolve_left (by simp [hb]))]

/-- The bytes CHKCRC reads are inside the frame (44_device_validator.md R186). -/
theorem crcOk_congr {p : DeviceProfile} {f g : Nat → Byte} (hidx : p.crcIdx < p.len)
    (h : ∀ k, k < p.len → f k = g k) : crcOk p f = crcOk p g := by
  unfold crcOk
  rw [byteSum_congr fun k hk => h k (by omega), h p.crcIdx hidx]

/-- The stages after TRIM commit a frame that passes both checks (44_device_validator.md R187, 46_sequencer.md R227). -/
theorem runStages_of_checks {s : State} (hc : s.configured = true) (hid : s.profile.idInside = true)
    (hidx : s.profile.crcIdx < s.profile.len) (hdev : devOk s.profile s.readFrame = true)
    (hcrc : crcOk s.profile s.readFrame = true) :
    runStages [execChkdev, execChkcrc, execCommit] s = .next (s.withResult none).committed := by
  have h1 := execChkdev_next hc hid
  have h2 := execChkcrc_next (s := s.withResult none) hc hidx
  rw [if_pos hdev] at h1
  rw [State.withResult_profile, State.withResult_readFrame, if_pos hcrc] at h2
  exact (runStages_passed h1 rfl).trans (runStages_passed h2 rfl)

/-! The stream of `s` is, in polarity `pol`, one that carries a telegram; `hpre` and `hnone` are R167's premises. -/

section Telegram

variable {s : State} {pre post : List Bool} {bytes : List Byte} {pol : Bool}
  (hc : s.configured = true) (hb : s.blen ≤ s.profile.cap)
  (hne : bytes ≠ []) (hlen : bytes.length = s.profile.len)
  (hmin : s.profile.minBits ≤ 10 * s.profile.len + post.length)
  (hblen : s.blen = (pre ++ telegram bytes ++ post).length)
  (hbits : ∀ k, k < s.blen → (s.readBit k ^^ pol) = (pre ++ telegram bytes ++ post).getD k false)
  (hpre : ∀ q, ¬ RunAt (fun k => pre.getD k false) pre.length q)
  (hnone : pol = true → ∀ q, ¬ RunAt s.readBit s.blen q)

include hc hb hne hlen hmin hblen hbits hpre hnone

/-- A telegram of either polarity synchronizes on the attempt of its polarity, right after its preamble. -/
theorem exec_sync_of_telegram :
    ∃ t, exec .sync s = .next t ∧ t.result = none ∧ t.inverted = pol ∧ t.start = pre.length + 16 ∧
      t.holdsBits (pre ++ telegram bytes ++ post) ∧ WorkFrame s t := by
  obtain ⟨q, hq, hzero⟩ := telegram_firstRun _ pre post bytes hne s.blen hblen hbits hpre
  obtain ⟨t, ht, hinv, hstart, hlong, hread, hblen', hframe⟩ := exec_sync_of_polarity hc hb hnone hq
  have hstart' : t.start = pre.length + 16 := firstZeroFrom_unique hstart hzero
  refine ⟨t, ht, hlong.2 ?_, hinv, hstart', ⟨hblen'.trans hblen, fun k hk => ?_⟩, hframe⟩
  · rw [hblen, hstart', stream_length]
    omega
  · rw [hread k (by omega), hbits k (by omega)]

/-- SYNC and then TRIM: the frame is the telegram's bytes. -/
theorem sync_trim_of_telegram :
    ∃ t, exec .sync s = .next t ∧ t.result = none ∧ t.inverted = pol ∧ t.start = pre.length + 16 ∧ WorkFrame s t ∧
      exec .trim t = .next (t.trimmed s.profile) ∧
      ∀ k, k < s.profile.len → (t.trimmed s.profile).readFrame k = bytes.getD k 0#8 := by
  obtain ⟨t, ht, hres, hinv, hstart, hold, hframe⟩ :=
    exec_sync_of_telegram hc hb hne hlen hmin hblen hbits hpre hnone
  have hp : t.profile = s.profile := hframe.profile
  have htrim := exec_trim_of_telegram (hframe.configured.trans hc) hold hstart (hp ▸ hlen)
  rw [hp] at htrim
  exact ⟨t, ht, hres, hinv, hstart, hframe, htrim⟩

/-- The stages from SYNC on commit the telegram's bytes when they pass both checks. -/
theorem runStages_of_telegram (hid : s.profile.idInside = true) (hidx : s.profile.crcIdx < s.profile.len)
    (hdev : devOk s.profile (fun k => bytes.getD k 0#8) = true)
    (hcrc : crcOk s.profile (fun k => bytes.getD k 0#8) = true) :
    ∃ t, runStages [execSync, execTrim, execChkdev, execChkcrc, execCommit] s = .next t.committed ∧
      t.inverted = pol ∧ (∀ k, k < s.profile.len → t.readFrame k = bytes.getD k 0#8) ∧ WorkFrame s t := by
  obtain ⟨t, hsync, hres, hinv, -, hframe, htrim, hread⟩ :=
    sync_trim_of_telegram hc hb hne hlen hmin hblen hbits hpre hnone
  have hp : (t.trimmed s.profile).profile = s.profile := hframe.profile
  have hchecks := runStages_of_checks (s := t.trimmed s.profile) (hframe.configured.trans hc) (by rwa [hp])
    (by rwa [hp]) (by rwa [hp, devOk_congr hid hread]) (by rwa [hp, crcOk_congr hidx hread])
  exact ⟨(t.trimmed s.profile).withResult none,
    (runStages_passed hsync hres).trans ((runStages_passed htrim rfl).trans hchecks), hinv, hread, hframe.trans rfl⟩

end Telegram

/-- Settles O25: the telegram synchronizes as it stands, and TRIM finds SYNC's frame start and the stream unchanged. -/
theorem telegramsRoundTrip : Obligations.TelegramsRoundTrip := by
  intro s pre post bytes hc hb hne hlen hmin ⟨hblen, hbits⟩ hpre
  obtain ⟨t, hsync, hres, hinv, hstart, -, htrim, hread⟩ := sync_trim_of_telegram (pol := false) hc hb hne hlen hmin
    hblen (fun k hk => (Bool.xor_false _).trans (hbits k (hblen ▸ hk))) hpre Bool.noConfusion
  exact ⟨t, _, hsync, hres, hinv, hstart, htrim, hread⟩

/-! ### A telegram through a whole POLL (46_sequencer.md R225) -/

theorem keptHalves_length : ∀ hs : List Bool, (keptHalves hs).length = hs.length / 2
  | [] => rfl
  | [_] => by simp [keptHalves]
  | _ :: _ :: hs => by
    rw [keptHalves, List.length_cons, keptHalves_length hs, List.length_cons, List.length_cons]
    omega

/-- ASSEMBLE without an abort leaves the kept half-bits as the stream (41_frame_assembler.md R148, R150). -/
theorem execAssemble_holdsBits {s : State} {hs : List Bool} {n : Nat} (hc : s.configured = true)
    (hview : streamView s.par.seedEmit 0 0#4 0 s.codes = .done hs n) :
    ∃ t, execAssemble s = .next t ∧ t.result = none ∧ t.holdsBits (keptHalves hs) ∧ t.blen ≤ s.profile.cap ∧
      WorkFrame s t := by
  obtain ⟨t, ht, hres, -, hhc, hblen, hbits, hframe⟩ := execAssemble_of_done hc hview
  obtain ⟨-, -, hlen⟩ := streamView_done_bounds (Nat.zero_le 4) hview
  rw [codes_length] at hlen
  have hkept : t.blen = (keptHalves hs).length := by rw [hblen, hhc, keptHalves_length]
  refine ⟨t, ht, hres, ⟨hkept, fun k hk => ?_⟩, by omega, ?_⟩
  · rw [hbits k (hkept ▸ hk), keptHalves_getD]
  · rw [hframe]
    rfl

/-- A list written in polarity `pol` and read in polarity `pol` is the list. -/
theorem getD_polarity {pol : Bool} {l : List Bool} {k : Nat} (hk : k < l.length) :
    ((if pol then l.map (fun b => !b) else l).getD k false ^^ pol) = l.getD k false := by
  cases pol with
  | false => exact Bool.xor_false _
  | true => rw [if_pos rfl, getD_map_not hk, Bool.xor_true, Bool.not_not]

/-- POLL of a complete capture is PROCESS (46_sequencer.md R223). -/
theorem exec_poll_of_complete {s : State} (ho : s.outstanding = true) (ha : s.armed = false) (now : Time) :
    exec (.poll now) s = process s := by
  simp [exec, execPoll, ho, ha]

theorem committed_phase {s : State} (h : s.outstanding = false) : s.committed.phase = .decoded := by
  simp [State.phase, h]

/-- Settles O45: ASSEMBLE leaves the kept half-bits as the stream (`execAssemble_holdsBits`), which carries the telegram
in polarity `pol`, and the other stages commit its bytes (`runStages_of_telegram`). -/
theorem capturedTelegramsDecode : Obligations.CapturedTelegramsDecode := by
  intro s now hs pre post bytes n pol hinv hcomplete hview hkept hpre hnone hlen hmin hdev hcrc
  obtain ⟨ho, ha⟩ : s.outstanding = true ∧ s.armed = false := by simpa [State.captureComplete] using hcomplete
  have hc : s.configured = true := hinv.outstandingConfigured ho
  obtain ⟨-, -, -, -, hlen1, hid1, hidx, -⟩ :=
    (wellFormedProfilesAreTheOnesOfTheRules s.par.widths.time s.profile).1 (hinv.profile hc).1
  have hid : s.profile.idInside = true := (idInside_iff _).2 ⟨hlen1, hid1⟩
  have hne : bytes ≠ [] := List.ne_nil_of_length_pos (by omega)
  obtain ⟨u, hasm, hres, ⟨hblenU, hbitsU⟩, hcap, hframeU⟩ :=
    execAssemble_holdsBits (s := { s with outstanding := false }) hc hview
  have hp : u.profile = s.profile := hframeU.profile
  have hblen : u.blen = (pre ++ telegram bytes ++ post).length := by
    rw [hblenU, hkept]
    cases pol <;> simp
  have hbits : ∀ k, k < u.blen → (u.readBit k ^^ pol) = (pre ++ telegram bytes ++ post).getD k false := fun k hk => by
    rw [hbitsU k (hblenU ▸ hk), hkept, getD_polarity (hblen ▸ hk)]
  have hnoneU : pol = true → ∀ q, ¬ RunAt u.readBit u.blen q := fun hpol q hq =>
    hnone hpol q (hblenU ▸ (runAt_congr (fun k hk => hbitsU k (hblenU ▸ hk)) q).1 hq)
  obtain ⟨t, hstages, hinvT, hread, hframeT⟩ := runStages_of_telegram (hframeU.configured.trans hc) (hp ▸ hcap) hne
    (hp ▸ hlen) (hp ▸ hmin) hblen hbits hpre hnoneU (hp ▸ hid) (hp ▸ hidx) (hp ▸ hdev) (hp ▸ hcrc)
  have hout : t.outstanding = false := (hframeU.trans hframeT).sameCapture.1
  have hpoll : exec (.poll now) s = .next t.committed :=
    (exec_poll_of_complete ho ha now).trans ((runStages_passed hasm hres).trans hstages)
  exact ⟨t.committed, hpoll, committed_phase hout, rfl, hinvT, hp ▸ hread⟩

end Sys2Proof.Machine
end

section
/-!
PROOFS. The FrameTrimmer (43_frame_trimmer.md R175, R177, R178): the bits of the bytes TRIM writes, and the bytes it leaves.
-/

namespace Sys2Proof.Machine

section Trimmed

variable (s : State) (p : DeviceProfile) {k : Nat}

/-- Byte `k` holds the data bits at offsets 1 to 8 of its byte frame, the first in bit 0 (43_frame_trimmer.md R178). -/
theorem trimmed_readFrame_getLsbD {m : Nat} (hk : k < p.len) (hm : m < 8) :
    ((s.trimmed p).readFrame k).getLsbD m = s.readBit (s.start + 10 * k + 1 + m) := by
  rw [trimmed_readFrame, if_pos hk, packByte_getLsbD _ _ hm]

/-- Bytes from `P.N` on stay as they are (43_frame_trimmer.md R177). -/
theorem trimmed_readFrame_of_len_le (hk : p.len ≤ k) : (s.trimmed p).readFrame k = s.readFrame k := by
  rw [trimmed_readFrame, if_neg (Nat.not_lt.2 hk)]

end Trimmed

/-- Settles O24: inside the stream TRIM ends in `State.trimmed`, which keeps every other field (R175). -/
theorem trimPacksTheDataBits : Obligations.TrimPacksTheDataBits := fun s hc hb =>
  ⟨s.trimmed s.profile, execTrim_next hc hb, fun _ _ => trimmed_readFrame_getLsbD s s.profile,
    fun _ => trimmed_readFrame_of_len_le s s.profile, rfl⟩

end Sys2Proof.Machine
end

section
/-!
PROOFS. The DeviceValidator (44_device_validator.md R185 to R189): what CHKDEV and CHKCRC accept, a single changed byte
under the checksum, and the one way a frame becomes valid.
-/

namespace Sys2Proof.Machine

/-! ### The one way a frame becomes valid (44_device_validator.md R187, 10_state.md R33) -/

/-- An event that is no POLL validates nothing: what is valid after it was valid before it. -/
theorem valid_before_of_not_poll {s t : State} {i : Instr} (hevent : isEvent i) (hpoll : ∀ now, i ≠ .poll now)
    (ht : exec i s = .next t) (hvalid : t.valid = true) : s.valid = true := by
  cases i with
  | edge level now => rcases execEdge_eq_next ht with ⟨-, rfl⟩ | ⟨-, -, -, rfl⟩ <;> exact hvalid
  | config model pin pinmode =>
    obtain ⟨-, -, -, rfl⟩ := execConfig_eq_next ht
    cases hvalid
  | start now =>
    rcases startOp_eq_next ht with rfl | ⟨-, -, -, rfl⟩
    · exact hvalid
    · cases hvalid
  | readReq now =>
    rcases execReadReq_eq_next ht with rfl | ⟨-, -, rfl⟩
    · exact hvalid
    · cases hvalid
  | poll now => exact absurd rfl (hpoll now)
  | getField group index =>
    obtain ⟨r, rfl⟩ := execGetField_eq_next ht
    exact hvalid
  | assemble | sync | trim | chkdev | chkcrc | commit => cases hevent
  | sw _ | dw _ | sh _ | bt _ | ld _ | lt _ => cases hevent

/-- A POLL that makes a frame valid ran PROCESS on a complete capture, and PROCESS passed both checks. -/
theorem execPoll_validates {s t : State} {now : Time} (ht : execPoll now s = .next t) (hbefore : s.valid = false)
    (hafter : t.valid = true) :
    s.captureComplete = true ∧ devOk t.profile t.readFrame = true ∧ crcOk t.profile t.readFrame = true := by
  rcases execPoll_eq_next ht with rfl | rfl | ⟨ho, ha, hprocess⟩
  · exact absurd (hbefore.symm.trans hafter) Bool.noConfusion
  · cases hafter
  · have hcomplete : s.captureComplete = true := by simp [State.captureComplete, ho, ha]
    rcases (process_eq_next hprocess).outcome with ⟨-, -, -, hdev, hcrc⟩ | ⟨hinvalid, -⟩
    · exact ⟨hcomplete, hdev, hcrc⟩
    · exact absurd (hinvalid.symm.trans hafter) Bool.noConfusion

/-- Settles O57: no other event validates (`valid_before_of_not_poll`), and a POLL does so only through both checks
(`execPoll_validates`). -/
theorem framesBecomeValidOnlyThroughBothChecks : Obligations.FramesBecomeValidOnlyThroughBothChecks := by
  intro s t i hevent ht hbefore hafter
  have hpoll : ∃ now, i = .poll now := by
    by_contra hnot
    have hvalid := valid_before_of_not_poll hevent (not_exists.1 hnot) ht hafter
    exact absurd (hbefore.symm.trans hvalid) Bool.noConfusion
  obtain ⟨now, rfl⟩ := hpoll
  obtain ⟨hcomplete, hchecks⟩ := execPoll_validates ht hbefore hafter
  exact ⟨hcomplete, ⟨now, rfl⟩, hchecks⟩

/-! ### What CHKDEV and CHKCRC accept (44_device_validator.md R185, R186, R188) -/

/-- A check's result is a pass exactly when its predicate holds. -/
theorem checkResult_eq_none {ok : Bool} {c : CycleFailure} : (if ok then none else some c) = none ↔ ok = true := by
  cases ok <;> simp

/-- Settles O27: inside the frame CHKDEV stores the verdict of `devOk` (`execChkdev_next`). -/
theorem chkdevComparesTheIdentityBytes : Obligations.ChkdevComparesTheIdentityBytes := by
  intro s hc hlen hid1
  have hid : s.profile.idInside = true := (idInside_iff _).2 ⟨hlen, or_iff_not_imp_left.2 hid1⟩
  exact ⟨_, execChkdev_next hc hid, checkResult_eq_none.trans (devOk_iff _ _), ite_eq_or_eq ..⟩

/-- CHKCRC's predicate as arithmetic: the truncated sum is the sum modulo 256. -/
theorem crcOk_iff_sum (p : DeviceProfile) (f : Nat → Byte) :
    crcOk p f = true ↔
      p.crcIdx = 0 ∨ ((List.range p.crcIdx).map fun k => (f k).toNat).sum % 256 = (f p.crcIdx).toNat := by
  rw [crcOk_iff, ← byteSum_toNat, BitVec.toNat_inj]

/-- Settles O28: inside the frame CHKCRC stores the verdict of `crcOk` (`execChkcrc_next`). -/
theorem chkcrcAcceptsIffTheSumMatches : Obligations.ChkcrcAcceptsIffTheSumMatches := fun _ hc hidx =>
  ⟨_, execChkcrc_next hc hidx, checkResult_eq_none.trans (crcOk_iff_sum _ _), ite_eq_or_eq ..⟩

/-! ### A single changed byte (44_device_validator.md R189) -/

/-- Two frames whose bytes `0 .. n` agree apart from byte `j`, and which both carry their sum in byte `n`, agree in byte
`j` too: the checksum byte is fixed by the others, and a summed byte by the checksum and the other summands. -/
theorem byte_eq_of_both_sums_match {f g : Nat → Byte} {j n : Nat} (hj : j ≤ n) (hsame : ∀ k, k ≠ j → f k = g k)
    (hf : byteSum f n = f n) (hg : byteSum g n = g n) : f j = g j := by
  rcases hj.eq_or_lt with rfl | hlt
  · calc f j = byteSum f j := hf.symm
      _ = byteSum g j := byteSum_congr fun k hk => hsame k hk.ne
      _ = g j := hg
  · have hsums : byteSum f n = byteSum g n := by rw [hf, hg, hsame n hlt.ne']
    have hdiff := byteSum_sub f g hsame hlt
    rw [hsums] at hdiff
    exact sub_right_inj.1 hdiff

/-- Settles O29: were both frames accepted, the changed byte would be the same in both (`byte_eq_of_both_sums_match`). -/
theorem oneChangedByteFailsTheChecksum : Obligations.OneChangedByteFailsTheChecksum := by
  intro p f g j hidx hj hne hsame hf
  refine Bool.eq_false_iff.2 fun hg => hne ?_
  exact byte_eq_of_both_sums_match hj hsame (((crcOk_iff p f).1 hf).resolve_left hidx)
    (((crcOk_iff p g).1 hg).resolve_left hidx)

end Sys2Proof.Machine
end

section
/-!
PROOFS. The FieldDecoder (45_field_decoder.md R195 to R210): what a query answers without a validated frame, outside the
profile's capacity, in the heat groups, and in each of the four groups of the offset table.
-/

namespace Sys2Proof.Machine

/-! ### A query answers as its group does (45_field_decoder.md R195) -/

theorem execGetField_of_invalid {s : State} (hv : s.valid = false) (group : BitVec 3) (index : Nat) :
    execGetField group index s = .next (s.answer (.decodeFailure s.status)) :=
  if_neg (Bool.eq_false_iff.1 hv)

theorem execGetField_of_next {s : State} (hv : s.valid = true) (hc : s.configured = true) {group : BitVec 3}
    {index : Nat} {r : FieldResult} (hr : groupField s.profile s.readFrame group index = .next r) :
    execGetField group index s = .next (s.answer r) := by
  rw [execGetField_valid group index hv hc, hr, andThen_next]

theorem execGetField_of_refused {s : State} (hv : s.valid = true) (hc : s.configured = true) {group : BitVec 3}
    {index : Nat} {e : Refusal} (he : groupField s.profile s.readFrame group index = .refused e) :
    execGetField group index s = .refused e := by
  rw [execGetField_valid group index hv hc]
  exact andThen_eq_refused.2 (.inl he)

/-- Settles O31: `valid` is tested first. -/
theorem queryWithoutAFrameAnswersTheStatus : Obligations.QueryWithoutAFrameAnswersTheStatus :=
  fun _ group index hv => execGetField_of_invalid hv group index

/-- Settles O32: a query that completes ends in `State.answer`. -/
theorem queriesChangeNothing : Obligations.QueriesChangeNothing := fun _ _ _ _ ht => execGetField_eq_next ht

/-- Settles O38: both groups are refused before a byte is read. -/
theorem heatQueriesAreRefused : Obligations.HeatQueriesAreRefused := fun _ _ hv hc =>
  ⟨execGetField_of_refused hv hc rfl, execGetField_of_refused hv hc rfl⟩

/-! ### Queries beyond the capacity of their group (45_field_decoder.md R196) -/

section Beyond

variable {p : DeviceProfile} (byte : Nat → Byte) {index : Nat}

theorem sensorField_beyond (h : p.fields.sensorCount ≤ index) :
    sensorField p byte index = .next (.decodeFailure .fieldOutOfRange) := if_neg (Nat.not_lt.2 h)

theorem outputField_beyond (h : 8 * p.fields.outBytes.val ≤ index) :
    outputField p byte index = .next (.decodeFailure .fieldOutOfRange) := if_neg (Nat.not_lt.2 h)

theorem speedField_beyond (h : p.fields.speedCount ≤ index) :
    speedField p byte index = .next (.decodeFailure .fieldOutOfRange) := if_neg (Nat.not_lt.2 h)

theorem analogField_beyond (h : p.fields.analogCount ≤ index) :
    analogField p byte index = .next (.decodeFailure .fieldOutOfRange) := if_neg (Nat.not_lt.2 h)

end Beyond

/-- Settles O33: each group tests its own bound, and groups 6 and 7 have no entry in the table. -/
theorem queriesOutsideTheTableFail : Obligations.QueriesOutsideTheTableFail := by
  intro s group index hv hc hout
  refine execGetField_of_next hv hc ?_
  rcases hout with ⟨rfl, h⟩ | ⟨rfl, h⟩ | ⟨rfl, h⟩ | ⟨rfl, h⟩ | rfl | rfl
  · exact sensorField_beyond s.readFrame h
  · exact outputField_beyond s.readFrame h
  · exact speedField_beyond s.readFrame h
  · exact analogField_beyond s.readFrame h
  · rfl
  · rfl

/-! ### Queries inside a well-formed profile's table (45_field_decoder.md R196) -/

section Inside

variable {W : Nat} {p : DeviceProfile} (hp : p.wellFormed W = true) (byte : Nat → Byte) {index : Nat}
include hp

theorem sensorField_inside (h : index < p.fields.sensorCount) :
    sensorField p byte index =
      .next (sensorResult p.fields.tagMap (word16 byte (p.fields.sensorBase + 2 * index))) := by
  obtain ⟨hin, -, -, -⟩ := fields_inside hp
  exact (if_pos h).trans (if_pos (by omega))

theorem outputField_inside (h : index < 8 * p.fields.outBytes.val) :
    outputField p byte index = .next (.outputBit ((outputWord p byte).getLsbD index)) := by
  obtain ⟨-, hin, -, -⟩ := fields_inside hp
  exact (if_pos h).trans (if_pos hin)

theorem speedField_inside (h : index < p.fields.speedCount) :
    speedField p byte index = .next (speedResult (byte (p.fields.speedBase + index))) := by
  obtain ⟨-, -, hin, -⟩ := fields_inside hp
  exact (if_pos h).trans (if_pos (by omega))

theorem analogField_inside (h : index < p.fields.analogCount) :
    analogField p byte index = .next (analogResult (byte (p.fields.analogBase + index))) := by
  obtain ⟨-, -, -, hin⟩ := fields_inside hp
  exact (if_pos h).trans (if_pos (by omega))

end Inside

/-! ### Speed and analog outputs (45_field_decoder.md R207, R208) -/

theorem speedResult_eq (b : Byte) :
    speedResult b = if 128 ≤ b.toNat then .decodeFailure .fieldNotPopulated else .speedStep (b.toNat % 32) := by
  rw [speedResult, getLsbD_seven, BitVec.extractLsb'_toNat]
  simp only [decide_eq_true_eq, Nat.shiftRight_zero, Nat.reducePow]

theorem analogResult_eq (b : Byte) :
    analogResult b = if 128 ≤ b.toNat then .decodeFailure .fieldNotPopulated else .analogValue (b.toNat % 128) := by
  rw [analogResult, getLsbD_seven, BitVec.extractLsb'_toNat]
  simp only [decide_eq_true_eq, Nat.shiftRight_zero, Nat.reducePow]

/-- Settles O37: the byte is inside the frame, and its top bit and low bits are arithmetic (`speedResult_eq`,
`analogResult_eq`). -/
theorem speedAndAnalogQueriesReadTheLowBits : Obligations.SpeedAndAnalogQueriesReadTheLowBits := by
  intro s index b hv hc hp
  refine ⟨fun hindex hb => ?_, fun hindex hb => ?_⟩
  · rw [hb, ← speedResult_eq]
    exact execGetField_of_next hv hc (speedField_inside hp s.readFrame hindex)
  · rw [hb, ← analogResult_eq]
    exact execGetField_of_next hv hc (analogField_inside hp s.readFrame hindex)

/-! ### The output bitmap (45_field_decoder.md R206) -/

theorem outputWord_getLsbD_of_one {p : DeviceProfile} (h : p.fields.outBytes = 1) (byte : Nat → Byte) {index : Nat}
    (hindex : index < 8) : (outputWord p byte).getLsbD index = (byte p.fields.outBase).getLsbD index := by
  have hone : ¬ p.fields.outBytes = 2 := by simp [h]
  rw [outputWord, if_neg hone, BitVec.getLsbD_setWidth, decide_eq_true (by omega : index < 16), Bool.true_and]

theorem outputWord_getLsbD_of_two {p : DeviceProfile} (h : p.fields.outBytes = 2) (byte : Nat → Byte) (index : Nat) :
    (outputWord p byte).getLsbD index =
      if index < 8 then (byte p.fields.outBase).getLsbD index
      else (byte (p.fields.outBase + 1)).getLsbD (index - 8) := by
  rw [outputWord, if_pos h, word16, BitVec.getLsbD_append]

/-- Settles O36: the bit tested is one of the low byte, or of the second byte from index 8 on. -/
theorem outputQueryTestsOneBit : Obligations.OutputQueryTestsOneBit := by
  rintro s index o hv hc hp rfl
  refine ⟨fun hone hindex => ?_, fun htwo hindex => ?_⟩
  · rw [← outputWord_getLsbD_of_one hone s.readFrame hindex]
    exact execGetField_of_next hv hc (outputField_inside hp s.readFrame (by rw [hone]; exact hindex))
  · rw [← outputWord_getLsbD_of_two htwo s.readFrame index]
    exact execGetField_of_next hv hc (outputField_inside hp s.readFrame (by rw [htwo]; exact hindex))

/-! ### Sensor fields: tag, magnitude and room mode (45_field_decoder.md R198 to R205) -/

/-- The tag is bits 14:12. -/
theorem sensorTag_eq (raw : BitVec 16) : raw.extractLsb' 12 3 = BitVec.ofNat 3 (raw.toNat / 4096) := by
  rw [BitVec.extractLsb', Nat.shiftRight_eq_div_pow]

theorem roomMagnitude_eq (raw : BitVec 16) : (raw.extractLsb' 0 9).toNat = raw.toNat % 512 :=
  BitVec.extractLsb'_toNat ..

/-- The mode is bits 10:9. -/
theorem roomMode_eq (raw : BitVec 16) :
    roomMode (raw.extractLsb' 9 2) =
      if raw.toNat / 512 % 4 = 0 then .auto else if raw.toNat / 512 % 4 = 1 then .normal
      else if raw.toNat / 512 % 4 = 2 then .lower else .standby := by
  have hbits : (raw.extractLsb' 9 2).toNat = raw.toNat / 512 % 4 := by
    rw [BitVec.extractLsb'_toNat, Nat.shiftRight_eq_div_pow]
  rw [roomMode, hbits]
  rcases raw.toNat / 512 % 4 with _ | _ | _ | n <;> rfl

theorem sensorResult_of_room {m : TagMap} {raw : BitVec 16} (hraw : raw ≠ 0#16)
    (hroom : m.get (raw.extractLsb' 12 3) = some .room) :
    sensorResult m raw =
      .sensorReading (.room (raw.extractLsb' 0 9).toNat (roomMode (raw.extractLsb' 9 2))) := by
  rw [sensorResult, if_neg hraw, hroom]

/-- A field that ends below bit 15 does not see it change. -/
theorem extractLsb'_xor_signBit (raw : BitVec 16) {start len : Nat} (h : start + len ≤ 15) :
    (raw ^^^ 0x8000#16).extractLsb' start len = raw.extractLsb' start len := by
  have hsign : 0x8000#16 = BitVec.twoPow 16 15 := rfl
  apply BitVec.eq_of_getLsbD_eq
  intro i hi
  have hbit : (BitVec.twoPow 16 15).getLsbD (start + i) = false := by
    rw [BitVec.getLsbD_twoPow, decide_eq_false (by omega : ¬ 15 = start + i), Bool.and_false]
  rw [hsign, BitVec.getLsbD_extractLsb', BitVec.getLsbD_extractLsb', BitVec.getLsbD_xor, hbit, Bool.xor_false]

/-- Settles O35: tag, magnitude and mode all lie below bit 15 (`extractLsb'_xor_signBit`). -/
theorem roomFieldsIgnoreTheSignBit : Obligations.RoomFieldsIgnoreTheSignBit := by
  intro m raw hroom hraw hflip
  have hroom' : m.get ((raw ^^^ 0x8000#16).extractLsb' 12 3) = some .room := by
    rwa [extractLsb'_xor_signBit raw (by omega)]
  rw [sensorResult_of_room hflip hroom', sensorResult_of_room hraw hroom, extractLsb'_xor_signBit raw (by omega),
    extractLsb'_xor_signBit raw (by omega)]

/-- Settles O34: the two bytes form the word whose tag, signed value, magnitude and mode are arithmetic (`word16_toNat`,
`sensorTag_eq`, `signedValue_eq`, `roomMagnitude_eq`, `roomMode_eq`). -/
theorem sensorQueryDecodesTheRawValue : Obligations.SensorQueryDecodesTheRawValue := by
  rintro s index o raw v hv hc hp hindex rfl hraw hval
  refine (execGetField_of_next hv hc (group := 0#3) (sensorField_inside hp s.readFrame hindex)).trans
    (congrArg (fun r => Host.Outcome.next (s.answer r)) ?_)
  rw [← word16_toNat] at hraw
  generalize word16 s.readFrame (s.profile.fields.sensorBase + 2 * index) = w at hraw
  subst hraw
  rw [← signedValue_eq] at hval
  subst hval
  by_cases hzero : w = 0#16
  · subst hzero
    rfl
  · have hne : w.toNat ≠ 0 := fun h => hzero (BitVec.eq_of_toNat_eq h)
    rw [sensorResult, if_neg hzero, if_neg hne, sensorTag_eq]
    generalize s.profile.fields.tagMap.get (BitVec.ofNat 3 (w.toNat / 4096)) = kind
    match kind with
    | none | some .digital | some .temperature | some .rays | some .volumeFlow => rfl
    | some .room =>
      exact congrArg₂ (fun t mode => FieldResult.sensorReading (.room t mode)) (roomMagnitude_eq w) (roomMode_eq w)

end Sys2Proof.Machine
end

section
/-!
PROOFS. The sequencer (46_sequencer.md R220 to R228): what CONFIG, START, READ_REQ, POLL and COMMIT answer, case by case,
how a whole cycle ends, the table of the phases, and the suppression after a timeout.
-/

namespace Sys2Proof.Machine

/-! ### The phase (10_state.md R25, R35) -/

theorem captureComplete_iff (s : State) : s.captureComplete = true ↔ s.outstanding = true ∧ s.armed = false := by
  simp [State.captureComplete]

theorem phase_of_armed {s : State} (ho : s.outstanding = true) (ha : s.armed = true) :
    s.phase = if s.wr = 0 then .armed else .capturing := (if_pos ho).trans (if_pos ha)

theorem phase_of_complete {s : State} (ho : s.outstanding = true) (ha : s.armed = false) :
    s.phase = .captureComplete := (if_pos ho).trans (if_neg (Bool.eq_false_iff.1 ha))

/-- With no capture outstanding the phase is the terminal state of the last cycle, none of the capture's own. -/
theorem phase_of_not_outstanding {s : State} (ho : s.outstanding = false) :
    s.phase ≠ .armed ∧ s.phase ≠ .capturing ∧ s.phase ≠ .captureComplete := by
  rw [State.phase, ho]
  cases s.res <;> exact ⟨Phase.noConfusion, Phase.noConfusion, Phase.noConfusion⟩

theorem phase_aborted {s : State} (ho : s.outstanding = false) (hr : s.res = .aborted) : s.phase = .aborted := by
  simp [State.phase, ho, hr]

/-- In a state that meets the invariant the phases Armed and Capturing are the flag `armed` (10_state.md R37 item 1). -/
theorem State.Inv.phase_armed_or_capturing_iff {s : State} (h : s.Inv) :
    s.phase = .armed ∨ s.phase = .capturing ↔ s.armed = true := by
  cases ha : s.armed with
  | true =>
    obtain ⟨ho, -⟩ := h.armed ha
    rw [phase_of_armed ho ha]
    simp only [iff_true]
    split
    · exact .inl rfl
    · exact .inr rfl
  | false =>
    cases ho : s.outstanding with
    | true => simp [phase_of_complete ho ha]
    | false =>
      obtain ⟨harmed, hcapturing, -⟩ := phase_of_not_outstanding ho
      simp [harmed, hcapturing]

/-! ### How a cycle ends (46_sequencer.md R225, R227, 60_exceptions.md R256, R264) -/

/-- No stage before COMMIT reports: the one report of a failed cycle is FAIL's. -/
theorem WorkFrame.outs {s t : State} (h : WorkFrame s t) : t.outs = s.outs := by rw [h]

/-- A cycle that ends is Decoded with both checks passed and no report, or Aborted with one report. -/
theorem CycleEnd.decoded_or_aborted {s t : State} (h : CycleEnd s t) (ho : s.outstanding = false) :
    (t.phase = .decoded ∧ t.valid = true ∧ t.status = .none ∧ t.outs = s.outs ∧
      devOk s.profile t.readFrame = true ∧ crcOk s.profile t.readFrame = true) ∨
    (t.phase = .aborted ∧ t.valid = false ∧
      ∃ c : CycleFailure, t.status = c.status ∧ t.outs = s.outs ++ [.report c.status]) := by
  rcases h with ⟨u, hw, hdev, hcrc, rfl⟩ | ⟨u, c, hw, -, rfl⟩
  · rw [hw.profile] at hdev hcrc
    exact .inl ⟨committed_phase (hw.sameCapture.1.trans ho), rfl, rfl, hw.outs, hdev, hcrc⟩
  · refine .inr ⟨phase_aborted (hw.sameCapture.1.trans ho) rfl, rfl, c, rfl, ?_⟩
    rw [← hw.outs]
    rfl

/-- Settles O44: POLL completes (`execPoll_completes`) and is PROCESS there, whose end is `CycleEnd.decoded_or_aborted`
inside `CycleFrame`. -/
theorem pollEndsDecodedOrAborted : Obligations.PollEndsDecodedOrAborted := by
  intro s now h hcomplete
  obtain ⟨ho, ha⟩ := (captureComplete_iff s).1 hcomplete
  obtain ⟨t, ht⟩ := execPoll_completes h now
  have hend := process_eq_next ((exec_poll_of_complete ho ha now).symm.trans ht)
  exact ⟨t, ht, hend.decoded_or_aborted rfl, hend.frame⟩

/-! ### The suppression after a timeout (46_sequencer.md R224, 10_state.md R27) -/

/-- What TIMEOUT leaves until READ_REQ or CONFIG: the cycle is aborted, no capture is outstanding and START is
suppressed. -/
def TimedOut (s : State) : Prop :=
  s.suppress = true ∧ s.armed = false ∧ s.outstanding = false ∧ s.res = .aborted

theorem State.Inv.timedOut {s : State} (h : s.Inv) (hs : s.suppress = true) : TimedOut s := by
  obtain ⟨ha, ho, -, hr⟩ := h.suppress hs
  exact ⟨hs, ha, ho, hr⟩

/-- The answer of a query is no report. -/
theorem reportsOf_append_field (r : FieldResult) :
    ∀ os : List Output, reportsOf (os ++ [.field r]) = reportsOf os
  | [] => rfl
  | .report c :: os => congrArg (c :: ·) (reportsOf_append_field r os)
  | .field _ :: os => reportsOf_append_field r os

/-- An event other than CONFIG and READ_REQ moves the timestamp, answers a query or does nothing. -/
theorem TimedOut.exec_event {s t : State} {i : Instr} (h : TimedOut s) (hevent : isEvent i)
    (hconfig : ∀ m p q, i ≠ .config m p q) (hread : ∀ now, i ≠ .readReq now) (ht : exec i s = .next t) :
    TimedOut t ∧ reportsOf t.outs = reportsOf s.outs := by
  have ⟨hs, ha, ho, _⟩ := h
  cases i with
  | edge level now =>
    cases (execEdge_unarmed level now ha).symm.trans ht
    exact ⟨h, rfl⟩
  | config m p q => exact absurd rfl (hconfig m p q)
  | start now =>
    rcases startOp_eq_next ht with rfl | ⟨-, hs', -⟩
    · exact ⟨h, rfl⟩
    · exact absurd (hs.symm.trans hs') Bool.noConfusion
  | readReq now => exact absurd rfl (hread now)
  | poll now =>
    cases (if_neg (Bool.eq_false_iff.1 ho)).symm.trans ht
    exact ⟨h, rfl⟩
  | getField group index =>
    obtain ⟨r, rfl⟩ := execGetField_eq_next ht
    exact ⟨h, reportsOf_append_field r s.outs⟩
  | assemble | sync | trim | chkdev | chkcrc | commit => cases hevent
  | sw _ | dw _ | sh _ | bt _ | ld _ | lt _ => cases hevent

/-- Settles O46, by induction over the events (`TimedOut.exec_event`). -/
theorem timeoutsAreReportedOnce : Obligations.TimeoutsAreReportedOnce := by
  intro is s t hinv hsuppress hevents ht
  have h : TimedOut s := hinv.timedOut hsuppress
  clear hinv hsuppress
  induction is generalizing s with
  | nil =>
    cases ht
    obtain ⟨hs, -, ho, hr⟩ := h
    exact ⟨hs, phase_aborted ho hr, rfl⟩
  | cons i is ih =>
    obtain ⟨u, hi, hrest⟩ := andThen_eq_next.1 ht
    obtain ⟨hevent, hconfig, hread⟩ := hevents i List.mem_cons_self
    obtain ⟨hu, hreports⟩ := h.exec_event hevent hconfig hread hi
    obtain ⟨hs, hphase, hreports'⟩ := ih u (fun j hj => hevents j (List.mem_cons_of_mem i hj)) hrest hu
    exact ⟨hs, hphase, hreports'.trans hreports⟩

/-! ### CONFIG, START and READ_REQ, case by case (46_sequencer.md R220, R221, R222) -/

/-- Settles O39: the four branches of CONFIG. -/
theorem configSelectsAProfileOrIsRefused : Obligations.ConfigSelectsAProfileOrIsRefused := by
  intro s model pin pinmode
  refine ⟨fun ha => if_pos ha, fun ha hmode => ?_, fun ha hmode hp => ?_, fun ha hmode hp => ?_⟩ <;>
    refine (if_neg (Bool.eq_false_iff.1 ha)).trans ?_
  · exact if_pos hmode
  · exact (if_neg hmode).trans (if_neg (Bool.eq_false_iff.1 hp))
  · exact (if_neg hmode).trans (if_pos hp)

section Start

variable {s : State} (now : Time)

theorem startOp_of_unconfigured (hc : s.configured = false) : startOp now s = .refused .notConfigured :=
  if_neg (Bool.eq_false_iff.1 hc)

theorem startOp_of_suppressed_or_armed (hc : s.configured = true) (h : s.suppress = true ∨ s.armed = true) :
    startOp now s = .next s := by
  rw [startOp, if_pos hc]
  rcases h with hs | ha
  · exact if_pos hs
  · rw [if_pos ha, ite_self]

theorem startOp_arms (hc : s.configured = true) (hs : s.suppress = false) (ha : s.armed = false) :
    startOp now s = .next (s.arm now) := by
  rw [startOp, if_pos hc, if_neg (Bool.eq_false_iff.1 hs), if_neg (Bool.eq_false_iff.1 ha)]

end Start

/-- Settles O40. -/
theorem startArmsOrHasNoEffect : Obligations.StartArmsOrHasNoEffect := fun _ now =>
  ⟨startOp_of_unconfigured now, startOp_of_suppressed_or_armed now, startOp_arms now⟩

/-- Settles O41: a configured READ_REQ is START with the suppression lifted. -/
theorem readReqLiftsTheSuppression : Obligations.ReadReqLiftsTheSuppression := fun _ now =>
  ⟨fun hc => if_neg (Bool.eq_false_iff.1 hc),
    fun hc ha => (if_pos hc).trans (startOp_of_suppressed_or_armed now hc (.inr ha)),
    fun hc ha => (if_pos hc).trans (startOp_arms now hc rfl ha)⟩

/-! ### POLL and COMMIT, case by case (46_sequencer.md R223 to R227) -/

theorem guardExpired_iff (s : State) (now : Time) :
    s.guardExpired now = true ↔ s.par.tNodata ≤ interval s.par.widths.time now s.armTime := decide_eq_true_iff

theorem execPoll_of_not_outstanding {s : State} (ho : s.outstanding = false) (now : Time) :
    execPoll now s = .next s := if_neg (Bool.eq_false_iff.1 ho)

theorem execPoll_of_armed {s : State} (ho : s.outstanding = true) (ha : s.armed = true) (now : Time) :
    execPoll now s = if s.wr = 0 ∧ s.guardExpired now = true then .next s.timeout else .next s :=
  (if_pos ho).trans (if_pos ha)

/-- Settles O42: an armed POLL is the test of the guard. -/
theorem pollWaitsOrTimesOut : Obligations.PollWaitsOrTimesOut := by
  intro s now
  refine ⟨fun ho => execPoll_of_not_outstanding ho now, fun ho ha hw => ?_, fun ho ha _ hlt => ?_,
    fun ho ha hw hle => ?_⟩ <;> refine (execPoll_of_armed ho ha now).trans ?_
  · exact if_neg fun ⟨hzero, _⟩ => hw hzero
  · exact if_neg fun ⟨_, hguard⟩ => hlt.not_ge ((guardExpired_iff s now).1 hguard)
  · exact if_pos ⟨hw, (guardExpired_iff s now).2 hle⟩

/-- Settles O30. -/
theorem commitEntersDecoded : Obligations.CommitEntersDecoded := fun _ => rfl

/-- PROCESS's runner on the meanings of a list of operations. -/
theorem runStages_map_exec (is : List Instr) (s : State) : runStages (is.map exec) s = stagesByExec is s := by
  induction is generalizing s with
  | nil => rfl
  | cons i is ih =>
    rw [List.map_cons, runStages, stagesByExec]
    congr 1
    funext t
    cases hr : t.result with
    | none => exact ih t
    | some c => simp only [State.fail, State.report, hr]

/-- Settles O43: the stages of PROCESS are the meanings of the six operations. -/
theorem pollRunsTheStagesInOrder : Obligations.PollRunsTheStagesInOrder := fun _ now ho ha =>
  (exec_poll_of_complete ho ha now).trans (runStages_map_exec [.assemble, .sync, .trim, .chkdev, .chkcrc, .commit] _)

/-! ### The table of the phases (46_sequencer.md R228) -/

/-- A stored edge begins or continues the capture, and completes it when it fills the buffer (40_edge_sampler.md R126). -/
theorem storeCode_phase {s : State} (ho : s.outstanding = true) (ha : s.armed = true) (cap : Nat) (c : PulseCode) :
    (s.storeCode cap c).phase = if s.wr + 1 = cap then .captureComplete else .capturing := by
  have hfills := storeCode_armed_eq_false ha cap c
  split
  case isTrue hfull => exact phase_of_complete ho (hfills.2 hfull)
  case isFalse hroom =>
    have ha' : (s.storeCode cap c).armed = true := eq_true_of_ne_false fun h => hroom (hfills.1 h)
    exact (phase_of_armed (s := s.storeCode cap c) ho ha').trans (if_neg (Nat.succ_ne_zero s.wr))

section Table

variable {s t : State} {now : Time} (h : s.Inv)
include h

theorem execEdge_phase {level : Bool} (ht : execEdge level now s = .next t) :
    t.phase =
      if s.phase = .armed ∨ s.phase = .capturing then
        (if s.wr + 1 = s.profile.cap then .captureComplete else .capturing)
      else s.phase := by
  rcases execEdge_eq_next ht with ⟨ha, rfl⟩ | ⟨ha, -, -, rfl⟩
  · rw [if_neg (mt h.phase_armed_or_capturing_iff.1 (Bool.eq_false_iff.1 ha))]
    rfl
  · obtain ⟨ho, -⟩ := h.armed ha
    rw [if_pos (h.phase_armed_or_capturing_iff.2 ha)]
    exact storeCode_phase (s := { s with lastEdgeTime := now }) ho ha _ _

theorem execStart_phase (ht : execStart now s = .next t) :
    t.phase = if s.phase = .armed ∨ s.phase = .capturing ∨ s.suppress = true then s.phase else .armed := by
  have hiff : (s.phase = .armed ∨ s.phase = .capturing ∨ s.suppress = true) ↔ s.suppress = true ∨ s.armed = true := by
    rw [← or_assoc, h.phase_armed_or_capturing_iff, or_comm]
  rcases startOp_cases now s with ⟨-, e⟩ | ⟨-, hidle, e⟩ | ⟨-, hs, ha, e⟩ <;> cases e.symm.trans ht
  · rw [if_pos (hiff.2 hidle)]
  · rw [if_neg (mt hiff.1 (by simp [hs, ha]))]
    exact arm_phase s now

theorem execReadReq_phase (ht : execReadReq now s = .next t) :
    t.phase = if s.phase = .armed ∨ s.phase = .capturing then s.phase else .armed := by
  rcases execReadReq_cases now s with ⟨-, e⟩ | ⟨-, ha, e⟩ | ⟨-, ha, e⟩ <;> cases e.symm.trans ht
  · rw [if_pos (h.phase_armed_or_capturing_iff.2 ha)]
    rfl
  · rw [if_neg (mt h.phase_armed_or_capturing_iff.1 (Bool.eq_false_iff.1 ha))]
    exact arm_phase _ now

end Table

/-- The row of POLL needs no invariant: its cases are the phases Armed, Capturing, CaptureComplete and the rest. -/
theorem execPoll_phase {s t : State} {now : Time} (ht : execPoll now s = .next t) :
    if s.phase = .armed then
      if s.par.tNodata ≤ interval s.par.widths.time now s.armTime then t.phase = .aborted ∧ t.suppress = true
      else t.phase = .armed
    else if s.phase = .captureComplete then t.phase = .decoded ∨ t.phase = .aborted
    else t.phase = s.phase := by
  rcases execPoll_cases now s with ⟨ho, e⟩ | ⟨ho, ha, hw, hguard, e⟩ | ⟨ho, ha, hwait, e⟩ | ⟨ho, ha, e⟩
  · obtain ⟨harmed, -, hcomplete⟩ := phase_of_not_outstanding ho
    cases e.symm.trans ht
    rw [if_neg harmed, if_neg hcomplete]
  · have hphase : s.phase = .armed := (phase_of_armed ho ha).trans (if_pos hw)
    cases e.symm.trans ht
    rw [if_pos hphase, if_pos ((guardExpired_iff s now).1 hguard)]
    exact ⟨rfl, rfl⟩
  · have hphase := phase_of_armed ho ha
    cases e.symm.trans ht
    by_cases hw : s.wr = 0
    · rw [if_pos hw] at hphase
      rw [if_pos hphase, if_neg fun hle => hwait ⟨hw, (guardExpired_iff s now).2 hle⟩]
      exact hphase
    · rw [if_neg hw] at hphase
      rw [if_neg (by simp [hphase]), if_neg (by simp [hphase])]
  · have hphase := phase_of_complete ho ha
    rw [if_neg (by simp [hphase]), if_pos hphase]
    rcases (process_eq_next (e.symm.trans ht)).decoded_or_aborted rfl with ⟨hdecoded, -⟩ | ⟨haborted, -⟩
    · exact .inl hdecoded
    · exact .inr haborted

/-- Settles O48, one row of the table for each event. -/
theorem phasesMoveByTheTable : Obligations.PhasesMoveByTheTable := by
  intro s t i h ht
  cases i with
  | edge level now => exact execEdge_phase h ht
  | config model pin pinmode =>
    obtain ⟨ha, -, -, rfl⟩ := execConfig_eq_next ht
    exact ⟨ha, rfl⟩
  | start now => exact execStart_phase h ht
  | readReq now => exact execReadReq_phase h ht
  | poll now => exact execPoll_phase ht
  | getField group index =>
    obtain ⟨r, rfl⟩ := execGetField_eq_next ht
    rfl
  | assemble | sync | trim | chkdev | chkcrc | commit => trivial
  | sw _ | dw _ | sh _ | bt _ | ld _ | lt _ => trivial

end Sys2Proof.Machine
end

section
/-!
PROOFS. The two execution contexts (60_exceptions.md R261, 10_state.md R22, R23) and a stalled capture
(70_reset_and_hazards.md R285 to R287).
-/

namespace Sys2Proof.Machine

/-! ### What the EdgeSampler writes -/

/-- The registers EDGE writes agree in the two states (10_state.md R21 to R24). -/
def SameSampler (s t : State) : Prop :=
  t.lastEdgeTime = s.lastEdgeTime ∧ t.buf = s.buf ∧ t.wr = s.wr ∧ t.armed = s.armed

theorem SameSampler.refl (s : State) : SameSampler s s := ⟨rfl, rfl, rfl, rfl⟩

theorem WorkFrame.sameSampler {s t : State} (h : WorkFrame s t) : SameSampler s t := by
  rw [h]
  exact .refl s

theorem CycleFrame.sameSampler {s t : State} (h : CycleFrame s t) : SameSampler s t := by
  rw [h]
  exact .refl s

/-- EDGE stores at most one code, and storing may only clear `armed` (40_edge_sampler.md R120, R126). -/
theorem execEdge_writes {level : Bool} {now : Time} {s t : State} (ht : execEdge level now s = .next t) :
    t = { s with lastEdgeTime := now, buf := t.buf, wr := t.wr, armed := t.armed } ∧
    (t.wr = s.wr ∨ t.wr = s.wr + 1) ∧ (t.armed = true → s.armed = true) := by
  rcases execEdge_eq_next ht with ⟨-, rfl⟩ | ⟨ha, -, -, rfl⟩
  · exact ⟨rfl, .inl rfl, id⟩
  · exact ⟨rfl, .inr rfl, fun _ => ha⟩

/-! ### What the task side leaves of it -/

/-- What the task side leaves of the EdgeSampler's registers: it can only empty the buffer, by its index. -/
def TaskFrame (s t : State) : Prop :=
  t.lastEdgeTime = s.lastEdgeTime ∧ t.buf = s.buf ∧ (t.wr = s.wr ∨ t.wr = 0)

theorem SameSampler.taskFrame {s t : State} (h : SameSampler s t) : TaskFrame s t := by
  obtain ⟨htime, hbuf, hwr, -⟩ := h
  exact ⟨htime, hbuf, .inl hwr⟩

/-- What the operation `i` of the task side may do to `armed`: keep it, set it in START and READ_REQ, clear it in POLL. -/
def ArmedMove (i : Instr) (s t : State) : Prop :=
  t.armed = s.armed ∨ (t.armed = true ∧ ∃ now, i = .start now ∨ i = .readReq now) ∨
    (t.armed = false ∧ ∃ now, i = .poll now)

/-- An operation that leaves the EdgeSampler's registers is one the task side may run. -/
theorem SameSampler.task {s t : State} (h : SameSampler s t) (i : Instr) : TaskFrame s t ∧ ArmedMove i s t := by
  have htask := h.taskFrame
  obtain ⟨-, -, -, harmed⟩ := h
  exact ⟨htask, .inl harmed⟩

/-- Of the task side only CONFIG, START, READ_REQ and POLL write a register of the EdgeSampler at all. -/
theorem exec_task {i : Instr} {s t : State} (hedge : ∀ level now, i ≠ .edge level now) (ht : exec i s = .next t) :
    TaskFrame s t ∧ ArmedMove i s t := by
  cases i with
  | edge level now => exact absurd rfl (hedge level now)
  | config model pin pinmode =>
    obtain ⟨-, -, -, rfl⟩ := execConfig_eq_next ht
    exact ⟨⟨rfl, rfl, .inr rfl⟩, .inl rfl⟩
  | start now =>
    rcases startOp_eq_next ht with rfl | ⟨-, -, -, rfl⟩
    · exact (SameSampler.refl _).task _
    · exact ⟨⟨rfl, rfl, .inr rfl⟩, .inr (.inl ⟨rfl, now, .inl rfl⟩)⟩
  | readReq now =>
    rcases execReadReq_eq_next ht with rfl | ⟨-, -, rfl⟩
    · exact (SameSampler.refl s).task _
    · exact ⟨⟨rfl, rfl, .inr rfl⟩, .inr (.inl ⟨rfl, now, .inr rfl⟩)⟩
  | poll now =>
    rcases execPoll_eq_next ht with rfl | rfl | ⟨-, -, ht⟩
    · exact (SameSampler.refl _).task _
    · exact ⟨⟨rfl, rfl, .inl rfl⟩, .inr (.inr ⟨rfl, now, rfl⟩)⟩
    · exact (process_eq_next ht).frame.sameSampler.task _
  | getField group index =>
    obtain ⟨r, rfl⟩ := execGetField_eq_next ht
    exact (SameSampler.refl s).task _
  | commit =>
    cases ht
    exact (SameSampler.refl s).task _
  | assemble | sync | trim | chkdev | chkcrc => exact (exec_workFrame ht nofun nofun).sameSampler.task _
  | sw _ | dw _ | sh _ | bt _ | ld _ | lt _ => exact (exec_workFrame ht nofun nofun).sameSampler.task _

theorem ArmedMove.sets_only_by_request {i : Instr} {s t : State} (h : ArmedMove i s t) (hs : s.armed = false)
    (ht : t.armed = true) : ∃ now, i = .start now ∨ i = .readReq now := by
  rcases h with hkept | ⟨-, hrequest⟩ | ⟨hclear, -⟩
  · exact absurd (hs.symm.trans (hkept.symm.trans ht)) Bool.noConfusion
  · exact hrequest
  · exact absurd (hclear.symm.trans ht) Bool.noConfusion

theorem ArmedMove.clears_only_by_poll {i : Instr} {s t : State} (h : ArmedMove i s t) (hs : s.armed = true)
    (ht : t.armed = false) : ∃ now, i = .poll now := by
  rcases h with hkept | ⟨hset, -⟩ | ⟨-, hpoll⟩
  · exact absurd (hs.symm.trans (hkept.symm.trans ht)) Bool.noConfusion
  · exact absurd (hset.symm.trans ht) Bool.noConfusion
  · exact hpoll

/-- Settles O54: the write set of EDGE is `execEdge_writes`, that of every other operation `exec_task`. -/
theorem contextsWriteOnlyTheirState : Obligations.ContextsWriteOnlyTheirState := by
  intro s t i ht
  constructor
  · rintro level now rfl
    exact execEdge_writes ht
  · intro hedge
    obtain ⟨⟨htime, hbuf, hwr⟩, harmed⟩ := exec_task hedge ht
    exact ⟨htime, hbuf, hwr, harmed.sets_only_by_request, harmed.clears_only_by_poll⟩

/-! ### A stalled capture (70_reset_and_hazards.md R285 to R287) -/

/-- The phase Capturing: an armed capture with at least one code stored (10_state.md R35). -/
theorem phase_eq_capturing_iff (s : State) :
    s.phase = .capturing ↔ s.outstanding = true ∧ s.armed = true ∧ s.wr ≠ 0 := by
  cases ho : s.outstanding with
  | false => simp [(phase_of_not_outstanding ho).2.1]
  | true =>
    cases ha : s.armed with
    | false => simp [phase_of_complete ho ha]
    | true => simp [phase_of_armed ho ha]

/-- Lifting a suppression that is not there changes nothing. -/
theorem with_suppress_false {s : State} (h : s.suppress = false) : { s with suppress := false } = s := by rw [← h]

/-- Settles O47: Capturing is armed with `wr ≠ 0`, and each of O40, O41, O42 and O39 says what its event does there. -/
theorem stalledCapturesMoveOnlyByEdge : Obligations.StalledCapturesMoveOnlyByEdge := by
  intro s now model pin pinmode h hphase
  obtain ⟨ho, ha, hw⟩ := (phase_eq_capturing_iff s).1 hphase
  obtain ⟨-, hc, hs, -⟩ := h.armed ha
  obtain ⟨-, hstart, -⟩ := startArmsOrHasNoEffect s now
  obtain ⟨-, hread, -⟩ := readReqLiftsTheSuppression s now
  obtain ⟨-, hpoll, -, -⟩ := pollWaitsOrTimesOut s now
  obtain ⟨hconfig, -, -, -⟩ := configSelectsAProfileOrIsRefused s model pin pinmode
  refine ⟨hstart hc (.inr ha), ?_, hpoll ho ha hw, hconfig ha⟩
  rw [hread hc ha, with_suppress_false hs]

end Sys2Proof.Machine
end
